-- ==== Sys2Proof/Word.lean ====
section
/-! DEFINITION. The bit-vector types the spec's ports and registers use (00_scope.md R8, R9, R12). Widths that are
parameters of an implementation (TW, VW, CW, and 8*NB) are held in a carrier of the largest width 00_scope.md R6
allows; Machine/Operands.lean says how a value is cut to the parameter's width. -/

namespace Sys2Proof

/-- An 8-bit value: a bank, a mask over the encoders, an index field, an opcode. -/
abbrev Byte := BitVec 8

/-- The 16-bit command word `cmd` (R90). -/
abbrev CommandWord := BitVec 16

/-- A 32-bit port or response value: `wdata`, `raw_enc`, `rdata` (R91, R92). Also the carrier of the VW-bit scalar of
a filter (VW at most 32) and of the CW-bit signed count of an encoder (CW at most 32, sign-extended). -/
abbrev Word := BitVec 32

/-- The carrier of a TW-bit millisecond time (TW at most 64). -/
abbrev Time := BitVec 64

/-- The carrier of a WW-bit window in milliseconds (WW at most 16). -/
abbrev Window := BitVec 16

/-- The carrier of the 8*NB-bit button vector (NB at most 16). -/
abbrev ButtonVector := BitVec 128

/-- The 5-bit status code of a button line (R153). -/
abbrev StatusCode := BitVec 5

end Sys2Proof
end

