-- ==== Sys2Proof/Config.lean ====
section
/-! DEFINITION. The implementation parameters of 00_scope.md R6 and the constants R7 derives from them. A state carries
one `Params` value that no operation writes (assumption log entry 1), so a statement about every state is a statement
about every choice of the parameters, the three OPEN ones among them. -/

namespace Sys2Proof

/-- The parameters of 00_scope.md R6, each under the spec's name. They are plain numbers; the ranges R6 gives them are
`Params.Legal` of WellFormed.lean. -/
structure Params where
  /-- `TW`: width of the millisecond counter and of every stored timestamp. -/
  tw : Nat
  /-- `NF`: number of filter instances. -/
  nf : Nat
  /-- `VW`: width of the scalar a filter validates. -/
  vw : Nat
  /-- `WW`: width of a debounce window register. -/
  ww : Nat
  /-- `NB`: number of 8-bit banks of the EDS. -/
  nb : Nat
  /-- `NSLOT`: capacity of the binding table. -/
  nslot : Nat
  /-- `NE`: number of encoders. -/
  ne : Nat
  /-- `CW`: width of an encoder's signed count. -/
  cw : Nat
  /-- `T_VFAST`, ms. -/
  tVfast : Nat
  /-- `STEP_VFAST`. -/
  stepVfast : Nat
  /-- `T_FAST`, ms (OPEN). -/
  tFast : Nat
  /-- `STEP_FAST` (OPEN). -/
  stepFast : Nat
  /-- `SW_DEBOUNCE`, ms (OPEN). -/
  swDebounce : Nat
  /-- `ENC_LPT`, in ticks of 10 ms. -/
  encLpt : Nat
  deriving DecidableEq, Repr

/-- The parameter values of 95_test_vectors.md: the defaults of 00_scope.md R6 and, for the three parameters that have
no default, the values the vectors use.
DESIGN CHOICE (assumption log entry 2): T_FAST = 10, STEP_FAST = 2 and SW_DEBOUNCE = 5 are OPEN in the spec. Unsafe
for a statement about `State.reset` alone. -/
def Params.standard : Params where
  tw := 32
  nf := 1
  vw := 8
  ww := 16
  nb := 2
  nslot := 8
  ne := 8
  cw := 16
  tVfast := 5
  stepVfast := 5
  tFast := 10
  stepFast := 2
  swDebounce := 5
  encLpt := 50

/-- `NPIN = 8*NB`, the number of logical input indices of the EDS (R7). -/
def Params.npin (p : Params) : Nat := 8 * p.nb

/-- `EMASK = 2^NE - 1`, the mask of implemented encoders (R7). -/
def Params.emask (p : Params) : Byte := BitVec.ofNat 8 (2 ^ p.ne - 1)

/-- `SENTINEL`, the failure indicator of `EDS.BIND` and `EDS.NEXT` (R7). -/
def sentinel : Word := 0xFFFFFFFF#32

end Sys2Proof
end

