-- ==== Sys2Proof/Syntax.lean ====
section
/-! DEFINITION. The operations of the block (30_encoding.md R93): one constructor of `Instr` per row of
spec/opcode_table.json. An operation that ignores the index field (R95) has no operand here. -/

namespace Sys2Proof

/-- The seventeen operations. The operand is the index field `k = cmd[7:0]`, an unsigned 8-bit number that is not scaled
(R96); what it selects is said by the operation's rule. -/
inductive Instr where
  /-- `NOP`, R110. -/
  | nop
  /-- `RD k`, `k` a register number, R111. -/
  | rd (k : Byte)
  /-- `WR k`, `k` a register number, R112. -/
  | wr (k : Byte)
  /-- `RST`, R114. -/
  | rst
  /-- `DBF.INIT f`, R121. -/
  | dbfInit (f : Byte)
  /-- `DBF.UPD f`, R122. -/
  | dbfUpd (f : Byte)
  /-- `DBF.STAT f`, R126. -/
  | dbfStat (f : Byte)
  /-- `EDS.INIT`, R143. -/
  | edsInit
  /-- `EDS.POLL`, R144. -/
  | edsPoll
  /-- `EDS.BIND pin`, R156. -/
  | edsBind (pin : Byte)
  /-- `EDS.NEXT`, R157. -/
  | edsNext
  /-- `QED.INIT`, R173. -/
  | qedInit
  /-- `QED.UPD`, R174. -/
  | qedUpd
  /-- `QED.RDACC e`, R194. -/
  | qedRdacc (e : Byte)
  /-- `QED.RDABS e`, R195. -/
  | qedRdabs (e : Byte)
  /-- `QED.RDMODE e`, R196. -/
  | qedRdmode (e : Byte)
  /-- `QED.RDTRN`, R197. -/
  | qedRdtrn
  deriving DecidableEq, Repr

end Sys2Proof
end

