-- ==== Sys2Proof/WellFormed.lean ====
section
/-! DEFINITION. What the spec asks of an implementation's parameters (00_scope.md R6) and of an instruction. -/

namespace Sys2Proof

/-- The legal ranges of 00_scope.md R6, one clause per parameter, in the rule's order. -/
abbrev Params.Legal (p : Params) : Prop :=
  (16 ≤ p.tw ∧ p.tw ≤ 64) ∧
  (1 ≤ p.nf ∧ p.nf ≤ 16) ∧
  (1 ≤ p.vw ∧ p.vw ≤ 32) ∧
  (1 ≤ p.ww ∧ p.ww ≤ 16) ∧
  (1 ≤ p.nb ∧ p.nb ≤ 16) ∧
  (1 ≤ p.nslot ∧ p.nslot ≤ 254) ∧
  (1 ≤ p.ne ∧ p.ne ≤ 8) ∧
  (2 ≤ p.cw ∧ p.cw ≤ 32) ∧
  p.tVfast < 2 ^ p.tw ∧
  (1 ≤ p.stepVfast ∧ p.stepVfast ≤ 2 ^ (p.cw - 1) - 1) ∧
  (p.tVfast ≤ p.tFast ∧ p.tFast < 2 ^ p.tw) ∧
  (1 ≤ p.stepFast ∧ p.stepFast ≤ 2 ^ (p.cw - 1) - 1) ∧
  p.swDebounce < 2 ^ p.ww ∧
  (1 ≤ p.encLpt ∧ p.encLpt ≤ 255)

/-- An instruction is well formed when its index fits the 8-bit field `k` of the command word (R90). The operand's type
is already 8 bits wide and every value from 0 to 255 is acceptable to every operation (20_memory.md R77), so no
instruction term is ill formed; the checks that can fail are those of `Params.Legal`. -/
def Instr.wellFormed : Instr → Bool
  | .nop | .rst | .edsInit | .edsPoll | .edsNext | .qedInit | .qedUpd | .qedRdtrn => true
  | .rd k | .wr k | .dbfInit k | .dbfUpd k | .dbfStat k | .edsBind k | .qedRdacc k | .qedRdabs k | .qedRdmode k =>
    k.toNat < 256

end Sys2Proof
end

