-- ==== Sys2Proof/Decode.lean ====
section
/-! DEFINITION. The decoder and the encoder of the 16-bit command word (30_encoding.md R90, R93 to R95): `op` is
`cmd[15:8]`, `k` is `cmd[7:0]`, one length and one format. Decoding is total: a word either names one of the seventeen
operations or is rejected by name as a reserved opcode. (A rejected word is no error of the machine: Machine/Step.lean
performs it as R94 says.) -/

namespace Sys2Proof

/-- Why a command word is no operation. -/
inductive DecodeError where
  /-- The opcode is one of the 239 reserved values (R94). -/
  | reserved (op : Byte)
  deriving DecidableEq, Repr

/-- `cmd[15:8]` (R90). -/
def opField (w : CommandWord) : Byte := w.extractLsb' 8 8

/-- `cmd[7:0]` (R90). -/
def indexField (w : CommandWord) : Byte := w.extractLsb' 0 8

/-- The operation a command word encodes: the table of R93. Operations that take no index ignore `k` (R95). -/
def decode (w : CommandWord) : Except DecodeError Instr :=
  let k := indexField w
  match opField w with
  | 0x00#8 => .ok .nop
  | 0x01#8 => .ok (.rd k)
  | 0x02#8 => .ok (.wr k)
  | 0x03#8 => .ok .rst
  | 0x10#8 => .ok (.dbfInit k)
  | 0x11#8 => .ok (.dbfUpd k)
  | 0x12#8 => .ok (.dbfStat k)
  | 0x20#8 => .ok .edsInit
  | 0x21#8 => .ok .edsPoll
  | 0x22#8 => .ok (.edsBind k)
  | 0x23#8 => .ok .edsNext
  | 0x30#8 => .ok .qedInit
  | 0x31#8 => .ok .qedUpd
  | 0x32#8 => .ok (.qedRdacc k)
  | 0x33#8 => .ok (.qedRdabs k)
  | 0x34#8 => .ok (.qedRdmode k)
  | 0x35#8 => .ok .qedRdtrn
  | op => .error (.reserved op)

/-- The opcode of an operation (R93). -/
def opcodeOf : Instr → Byte
  | .nop => 0x00#8
  | .rd _ => 0x01#8
  | .wr _ => 0x02#8
  | .rst => 0x03#8
  | .dbfInit _ => 0x10#8
  | .dbfUpd _ => 0x11#8
  | .dbfStat _ => 0x12#8
  | .edsInit => 0x20#8
  | .edsPoll => 0x21#8
  | .edsBind _ => 0x22#8
  | .edsNext => 0x23#8
  | .qedInit => 0x30#8
  | .qedUpd => 0x31#8
  | .qedRdacc _ => 0x32#8
  | .qedRdabs _ => 0x33#8
  | .qedRdmode _ => 0x34#8
  | .qedRdtrn => 0x35#8

/-- The index field of an operation; an assembler emits 0 where the operation takes no index (R95). -/
def indexOf : Instr → Byte
  | .nop | .rst | .edsInit | .edsPoll | .edsNext | .qedInit | .qedUpd | .qedRdtrn => 0#8
  | .rd k | .wr k | .dbfInit k | .dbfUpd k | .dbfStat k | .edsBind k | .qedRdacc k | .qedRdabs k | .qedRdmode k => k

/-- The command word of an operation: `{op, k}` (R90). -/
def encode (i : Instr) : CommandWord := opcodeOf i ++ indexOf i

/-- What the decoder reads from an instruction whose bits are `w`, numbered as spec/opcode_table.json numbers them
(bit 0 the least significant bit of the one 16-bit word). Every command is 16 bits long (R90): bits above the width the
table gives are 0, and a value that does not fit 16 bits is no command word. -/
def decodeTableWord (nbits w : Nat) : Option Instr :=
  if w < 2 ^ nbits ∧ w < 2 ^ 16 then (decode (BitVec.ofNat 16 w)).toOption else none

end Sys2Proof
end

