-- ==== Sys2Proof/Machine/State.lean ====
section
/-! DEFINITION. The state of the block (10_state.md R20 to R64), its responses (30_encoding.md R92) and its reset values
(10_state.md R63). Every register of 10_state.md is a field here under the spec's name; INVENTORY.md lists them. A
register whose width is a parameter sits in a carrier of the largest legal width (assumption log entry 9). The fields
`params`, `pending`, `ports` and `responses` of `State` are the model's own (log entries 1, 3, 5, 6). -/

namespace Sys2Proof.Machine

/-- The three debounce policies and the codes `POLICY[f]` gives them (R23). The code 3 is never held, so it has no
constructor (assumption log entry 12). -/
inductive Policy where
  /-- Code 0. -/
  | holder
  /-- Code 1. -/
  | delayer
  /-- Code 2. -/
  | blanker
  deriving DecidableEq, Repr

/-- The registers of one filter instance (R23 to R28). -/
structure Filter where
  /-- `POLICY[f]`, R23. -/
  policy : Policy
  /-- `WINDOW[f]`, WW bits, R24. -/
  window : Window
  /-- `OUT[f]`, VW bits, R25. -/
  out : Word
  /-- `CAND[f]`, VW bits, R26. -/
  cand : Word
  /-- `T0[f]`, TW bits, R27. -/
  t0 : Time
  /-- `RUN[f]`, R28. -/
  run : Bool
  deriving DecidableEq, Repr

/-- One entry of the binding table (R40). -/
structure Slot where
  /-- The consumer fetches its own value. -/
  byp : Bool
  /-- The logical index whose status the slot receives; a tag the block never interprets if `byp` is set (R156). -/
  pin : Byte
  deriving DecidableEq, Repr

/-- The registers of the EDS (R29 to R41). The bank registers are lists with one byte per bank, bank 0 first. -/
structure Eds where
  /-- `DEBOUNCE`, WW bits, R29. -/
  debounce : Window
  /-- `REPDLY`, unit 100 ms, R30. -/
  repdly : Byte
  /-- `REPINT`, unit 10 ms, R31. -/
  repint : Byte
  /-- `LPDLY`, unit 100 ms, R32. -/
  lpdly : Byte
  /-- `CUR[b]`, R33. Level 0 is active (R141). -/
  cur : List Byte
  /-- `PEND[b]`, R34. -/
  pend : List Byte
  /-- `DEBT0`, R35. -/
  debt0 : Time
  /-- `DEBRUN`, R35. -/
  debrun : Bool
  /-- `ANCHOR`, R36. -/
  anchor : Time
  /-- `REPPH`, R37. -/
  repph : Bool
  /-- `REPT0`, R37. -/
  rept0 : Time
  /-- `LPARM`, R38. -/
  lparm : Bool
  /-- `LPDONE[b]`, R39. -/
  lpdone : List Byte
  /-- `NBIND`, R40. -/
  nbind : Byte
  /-- `SLOT[j]`, NSLOT entries, R40. -/
  slots : List Slot
  /-- `CURSOR`, R41. -/
  cursor : Byte
  deriving DecidableEq, Repr

/-- The three 8-bit planes of an encoder line vector (R75): switch, `B` and `A` lines. -/
structure Planes where
  s : Byte
  b : Byte
  a : Byte
  deriving DecidableEq, Repr

/-- The per-encoder registers (R46, R49, R50, R53). -/
structure Encoder where
  /-- `NMODES[e]`: bits 6:0 the count, bit 7 the cycle-on-long-press flag, R46. -/
  nmodes : Byte
  /-- `COUNT[e]`, CW-bit two's complement, held sign-extended to 32 bits, R49. -/
  count : Word
  /-- `TRIGT[e]`, R50. -/
  trigt : Time
  /-- `TRIGV[e]`, R50. -/
  trigv : Bool
  /-- `MODE[e]`, R53. -/
  mode : Byte
  deriving DecidableEq, Repr

/-- The registers of the QED (R43 to R58). A mask has bit `e` for encoder `e`. -/
structure Qed where
  /-- `INV`, R43. -/
  inv : Byte
  /-- `HALF`, R44. -/
  half : Byte
  /-- `MODEWRAP`, R45. -/
  modewrap : Byte
  /-- `LASTTICK`, R47. -/
  lasttick : Time
  /-- `PREV = {PREV_S, PREV_B, PREV_A}`, R48. -/
  prev : Planes
  /-- `CHGUP`, R51. -/
  chgup : Byte
  /-- `CHGDN`, R51. -/
  chgdn : Byte
  /-- `CHGQUP`, R51. -/
  chgqup : Byte
  /-- `CHGQDN`, R51. -/
  chgqdn : Byte
  /-- `CNTCHG`, R52. -/
  cntchg : Byte
  /-- `MODECHG`, R54. -/
  modechg : Byte
  /-- `SWCUR`, R55. -/
  swcur : Byte
  /-- `SWPEND`, R56. -/
  swpend : Byte
  /-- `SWT0`, R56. -/
  swt0 : Time
  /-- `SWRUN`, R56. -/
  swrun : Bool
  /-- `PATT0`, R57. -/
  patt0 : Time
  /-- `QLPARM`, R57. -/
  qlparm : Bool
  /-- `LPLATCH`, R58. -/
  lplatch : Byte
  /-- `NMODES[e]`, `COUNT[e]`, `TRIGT[e]`, `TRIGV[e]`, `MODE[e]`, encoder 0 first. -/
  encs : List Encoder
  deriving DecidableEq, Repr

/-- The operand ports the host presents with a command (R91). An operation reads of `now` the low TW bits and of
`raw_btn` the low 8*NB bits (R96). -/
structure Ports where
  wdata : Word
  now : Time
  rawBtn : ButtonVector
  rawEnc : Word
  deriving DecidableEq, Repr

/-- Which of the source's calls a delivery stands for (R154). -/
inductive DeliveryKind where
  /-- `EDS.INIT`: the source's `initState`. -/
  | init
  /-- `EDS.POLL`: the source's `check`. -/
  | check
  deriving DecidableEq, Repr

/-- One delivery `(j, kind, byp, st)` of a status code to a bound slot (R154). -/
structure Delivery where
  slot : Nat
  kind : DeliveryKind
  byp : Bool
  st : StatusCode
  deriving DecidableEq, Repr

/-- The bank event record of `EDS.INIT` and `EDS.POLL` (R155). -/
structure BankEvent where
  kind : DeliveryKind
  cur : List Byte
  dn : List Byte
  up : List Byte
  rpt : List Byte
  lng : List Byte
  deliveries : List Delivery
  deriving DecidableEq, Repr

/-- The tick event record of `QED.UPD`: nine masks (R175). -/
structure TickEvent where
  up : Byte
  dn : Byte
  qup : Byte
  qdn : Byte
  act : Byte
  deact : Byte
  tog : Byte
  shortp : Byte
  longp : Byte
  deriving DecidableEq, Repr

/-- The event record of a response, where the operation has one (R92). -/
inductive EventRecord where
  | none
  | bank (r : BankEvent)
  | tick (r : TickEvent)
  deriving DecidableEq, Repr

/-- The response of an operation (R92). -/
structure Response where
  rdata : Word
  rflag : Bool
  evt : EventRecord
  deriving DecidableEq, Repr

/-- What the host can do to the block between two operations: assert the hardware reset input (R250), or present a
command word with the operand ports (R90, R91). -/
inductive HostEvent where
  | hardReset
  | command (word : CommandWord) (ports : Ports)
  deriving DecidableEq, Repr

/-- The state: the implementation's parameters, the registers of the three units, and the model's own record of the
command port. -/
structure State where
  /-- The parameters (R6); no operation writes them (log entry 1). -/
  params : Params
  /-- The filter instances, NF entries. -/
  dbf : List Filter
  /-- The edge detector and status distributor. -/
  eds : Eds
  /-- The quadrature-encoder decoder. -/
  qed : Qed
  /-- The operand ports as sampled for the operation being performed (log entry 5). -/
  ports : Ports
  /-- What the host will present, next first (log entry 3). -/
  pending : List HostEvent
  /-- The responses given so far, oldest first (log entry 6). -/
  responses : List Response
  deriving DecidableEq, Repr

/-- The reasons a step can stop with a fault: none. "No operation can fail" (60_exceptions.md R230); the type has no
constructor, so no step of the model can fault (log entry 10). Safe. -/
inductive Fault where
  deriving DecidableEq, Repr

/-- The reasons a step can be refused. -/
inductive Refusal where
  /-- An operation whose meaning has not been written yet, named by its mnemonic; raised only by an arm of
  Machine/Dispatch.lean. Safe: nothing is claimed of the operation. No arm raises it now. -/
  | notModelled (mnemonic : String)
  deriving DecidableEq, Repr

/-- The response an operation gives when its rule sets nothing: `rdata = 0`, `rflag = 0`, no event record (R92). -/
def Response.zero : Response := ⟨0#32, false, .none⟩

/-- Ports that carry zero. -/
def Ports.zero : Ports := ⟨0#32, 0#64, 0#128, 0#32⟩

/-- R63, a filter instance. -/
def Filter.reset : Filter := ⟨.holder, 0#16, 0#32, 0#32, 0#64, false⟩

/-- R63, an entry of the binding table. -/
def Slot.reset : Slot := ⟨false, 0#8⟩

/-- R63, the EDS registers. -/
def Eds.reset (p : Params) : Eds where
  debounce := 0#16
  repdly := 0#8
  repint := 0#8
  lpdly := 0#8
  cur := List.replicate p.nb 0xFF#8
  pend := List.replicate p.nb 0xFF#8
  debt0 := 0#64
  debrun := false
  anchor := 0#64
  repph := false
  rept0 := 0#64
  lparm := false
  lpdone := List.replicate p.nb 0#8
  nbind := 0#8
  slots := List.replicate p.nslot Slot.reset
  cursor := 0#8

/-- R63, the registers of one encoder. -/
def Encoder.reset : Encoder := ⟨0#8, 0#32, 0#64, false, 0#8⟩

/-- R63, the QED registers. -/
def Qed.reset (p : Params) : Qed where
  inv := 0#8
  half := 0#8
  modewrap := 0#8
  lasttick := 0#64
  prev := ⟨0#8, 0#8, 0#8⟩
  chgup := 0#8
  chgdn := 0#8
  chgqup := 0#8
  chgqdn := 0#8
  cntchg := 0#8
  modechg := 0#8
  swcur := 0#8
  swpend := 0#8
  swt0 := 0#64
  swrun := false
  patt0 := 0#64
  qlparm := false
  lplatch := 0#8
  encs := List.replicate p.ne Encoder.reset

/-- The machine after reset, for an implementation with parameters `p` (R63). The ports carry zero, nothing is pending
and no response has been given (log entries 3, 5, 6: DESIGN CHOICE). -/
def State.resetWith (p : Params) : State where
  params := p
  dbf := List.replicate p.nf Filter.reset
  eds := Eds.reset p
  qed := Qed.reset p
  ports := Ports.zero
  pending := []
  responses := []

/-- The machine right after reset, with the parameters of the spec's vectors (log entry 2). -/
def State.reset : State := State.resetWith Params.standard

end Sys2Proof.Machine
end

