-- ==== Sys2Proof/Machine/Operands.lean ====
section
/-! DEFINITION. How an operation takes its operands (30_encoding.md R96, 20_memory.md R71, R74, R75), and the arithmetic on
widths and times of 00_scope.md R9, R10. -/

namespace Sys2Proof.Machine

/-- `zext(trunc_n(v))`: the low `n` bits of `v`, zero-extended to the carrier of `v` (R9). -/
def keepLow {w : Nat} (n : Nat) (v : BitVec w) : BitVec w := (v.setWidth n).setWidth w

/-- `sext_32(trunc_n(v))`: the low `n` bits of `v` as a two's complement number, sign-extended to 32 bits (R9). -/
def keepSigned (n : Nat) (v : Word) : Word := (v.setWidth n).signExtend 32

/-- `elapsed(now, t) = (now - t) mod 2^TW` (R10). -/
def elapsed (p : Params) (now t : Time) : Nat := (now - t).toNat % 2 ^ p.tw

/-- A timer started at `t` has expired for a window of `w` ms: `elapsed(now, t) >= w` (R10). -/
def expired (p : Params) (now t : Time) (w : Nat) : Bool := decide (w ≤ elapsed p now t)

/-- The operand `now[TW-1:0]` (R96). -/
def nowOf (s : State) : Time := keepLow s.params.tw s.ports.now

/-- The scalar operand `wdata[VW-1:0]` of `DBF.INIT` and `DBF.UPD` (R96). -/
def scalarOf (s : State) : Word := keepLow s.params.vw s.ports.wdata

/-- `raw[b] = raw_btn[8b+7 : 8b]` (R74). -/
def rawBank (v : ButtonVector) (b : Nat) : Byte := v.extractLsb' (8 * b) 8

/-- The raw banks `raw[0], .. raw[NB-1]` of the sampled button vector (R74, R96). -/
def rawBanksOf (s : State) : List Byte := (List.range s.params.nb).map (rawBank s.ports.rawBtn)

/-- The planes of an encoder line vector, each masked by `EMASK` (R75, R171). -/
def unpack (p : Params) (raw : Word) : Planes where
  a := raw.extractLsb' 0 8 &&& p.emask
  b := raw.extractLsb' 8 8 &&& p.emask
  s := raw.extractLsb' 16 8 &&& p.emask

/-- The planes of the sampled encoder line vector. -/
def planesOf (s : State) : Planes := unpack s.params s.ports.rawEnc

/-- `byp = wdata[0]`, the operand of `EDS.BIND` (R96). -/
def bypassOf (s : State) : Bool := s.ports.wdata.getLsbD 0

/-- Clamp to `n` bits: `min(v, 2^n - 1)` (R113). -/
def clampTo (n : Nat) (v : Word) : Nat := min v.toNat (2 ^ n - 1)

/-- The code of a policy (R23). -/
def policyCode : Policy → Word
  | .holder => 0#32
  | .delayer => 1#32
  | .blanker => 2#32

/-- The policy a written value selects; a value above 2 selects none (R113). -/
def policyOf (v : Word) : Option Policy :=
  match v with
  | 0#32 => some .holder
  | 1#32 => some .delayer
  | 2#32 => some .blanker
  | _ => none

/-- The registers that have a number (R71). -/
inductive Reg where
  | policy (f : Nat)
  | window (f : Nat)
  | out (f : Nat)
  | debounce
  | repdly
  | repint
  | lpdly
  | nbind
  | cur (b : Nat)
  | inv
  | half
  | modewrap
  | swcur
  | lplatch
  | nmodes (e : Nat)
  deriving DecidableEq, Repr

/-- The three registers of a filter's block of four numbers; the fourth is a gap (R71). -/
def filterReg (f off : Nat) : Option Reg :=
  match off with
  | 0 => some (.policy f)
  | 1 => some (.window f)
  | 2 => some (.out f)
  | _ => none

/-- The registers of the DBF: four numbers for each instance, from 0x40 (R71). -/
def dbfReg (p : Params) (n : Nat) : Option Reg :=
  if 0x40 ≤ n ∧ n < 0x40 + 4 * p.nf then filterReg ((n - 0x40) / 4) ((n - 0x40) % 4) else none

/-- The registers of the EDS, from 0x80 (R71). -/
def edsReg (p : Params) (n : Nat) : Option Reg :=
  if n = 0x80 then some .debounce
  else if n = 0x81 then some .repdly
  else if n = 0x82 then some .repint
  else if n = 0x83 then some .lpdly
  else if n = 0x84 then some .nbind
  else if 0x90 ≤ n ∧ n < 0x90 + p.nb then some (.cur (n - 0x90))
  else none

/-- The registers of the QED, from 0xC0 (R71). -/
def qedReg (p : Params) (n : Nat) : Option Reg :=
  if n = 0xC0 then some .inv
  else if n = 0xC1 then some .half
  else if n = 0xC2 then some .modewrap
  else if n = 0xC3 then some .swcur
  else if n = 0xC4 then some .lplatch
  else if 0xC8 ≤ n ∧ n < 0xC8 + p.ne then some (.nmodes (n - 0xC8))
  else none

/-- The register a number is assigned to, `none` if the number is reserved (R71). -/
def regOf (p : Params) (k : Byte) : Option Reg :=
  if k.toNat < 0x80 then dbfReg p k.toNat
  else if k.toNat < 0xC0 then edsReg p k.toNat
  else qedReg p k.toNat

end Sys2Proof.Machine
end

