-- ==== Sys2Proof/Machine/Flags.lean ====
section
/-! DEFINITION. Every flag the block computes: the edge, repeat and long-press flags of the EDS and its status code
(42_edge_status.md R147 to R153), the pulse and switch flags of the QED (43_encoder_decoder.md R178 to R190). A mask over
the encoders has bit `e` for encoder `e`; `~` is on 8 bits (R9). -/

namespace Sys2Proof.Machine

/-- The mask whose bit `e` is the `e`-th entry of a list. -/
def maskOf (l : List Bool) : Byte := (BitVec.ofBoolListLE l).setWidth 8

/-- `Up = (new ^ old) & new`: the lines that went from 0 to 1 (R147). -/
def upEdges (new old : Byte) : Byte := (new ^^^ old) &&& new

/-- `Down = (new ^ old) & ~new`: the lines that went from 1 to 0 (R147). -/
def downEdges (new old : Byte) : Byte := (new ^^^ old) &&& ~~~new

/-- The long-press-flag mask after a commit with edges `up`: lines that became inactive are cleared (R147). -/
def clearReleased (lpdone up : Byte) : Byte := lpdone &&& ~~~up

/-- The active lines of a bank: those at level 0 (R141, R149). -/
def activeLines (cur : Byte) : Byte := ~~~cur

/-- `Long` at a firing: active lines that have not yet fired long-press (R151). -/
def longLines (cur lpdone : Byte) : Byte := ~~~cur &&& ~~~lpdone

/-- Bit `i & 7` of bank `i >> 3`: the bit of logical index `i` (R74). -/
def lineBit (banks : List Byte) (i : Nat) : Bool := (banks.getD (i / 8) 0#8).getLsbD (i % 8)

/-- The status code: bit 0 `Current`, bit 1 `Down`, bit 2 `Up`, bit 3 `Repeat`, bit 4 `Long` (R153). -/
def packStatus (lng rpt up dn cur : Bool) : StatusCode :=
  BitVec.ofBool lng ++ BitVec.ofBool rpt ++ BitVec.ofBool up ++ BitVec.ofBool dn ++ BitVec.ofBool cur

/-- The `A` samples after the inversion mask, in implemented encoders (R178). -/
def inverted (p : Params) (inv a : Byte) : Byte := (a ^^^ inv) &&& p.emask

/-- `rise`: a rising edge from sample `a0` to sample `a1` (R178). -/
def riseMask (a1 a0 : Byte) : Byte := a1 &&& ~~~a0

/-- `fall`: a falling edge of a half-cycle encoder (R178). -/
def fallMask (half a1 a0 : Byte) : Byte := ~~~a1 &&& a0 &&& half

/-- `up`: a rise with `B = 0` (R179) or a fall with `B = 1` (R180; PRESUMED by the spec, assumption log entry 17). -/
def upPulses (rise fall b : Byte) : Byte := (rise &&& ~~~b) ||| (fall &&& b)

/-- `dn`: a rise with `B = 1` (R179) or a fall with `B = 0` (R180). -/
def downPulses (rise fall b : Byte) : Byte := (rise &&& b) ||| (fall &&& ~~~b)

/-- `activated`: became pressed (R188). -/
def activated (new old : Byte) : Byte := new &&& ~~~old

/-- `deactivated`: became released (R188). -/
def deactivated (new old : Byte) : Byte := ~~~new &&& old

/-- `toggled`: either (R188). -/
def toggled (new old : Byte) : Byte := new ^^^ old

/-- `shortpress`: released and not latched as part of a long-press pattern (R189). -/
def shortPresses (new old lplatch : Byte) : Byte := deactivated new old &&& ~~~lplatch

/-- `longpress`: pressed and not yet latched (R190). -/
def longPresses (swcur lplatch : Byte) : Byte := swcur &&& ~~~lplatch

end Sys2Proof.Machine
end

