-- ==== Sys2Proof/Machine/Ops.lean ====
section
/-! DEFINITION. The named operations the meanings share: giving a response, reading and writing one entry of a register
file, the reset of the block, the debounce technique of the EDS and of the encoder switches, the register read and write
functions of 20_memory.md R72, R73 and 40_common_ops.md R113, and what the command port does between operations.
The block has no memory (R70), takes no exception and returns from none (60_exceptions.md R230, R235, R236): there is
no such operation to write. -/

namespace Sys2Proof.Machine

/-! ## Responses -/

/-- The operation completes in state `s` and gives the response `r` (R92). -/
def respond (s : State) (r : Response) : Host.Outcome State Fault Refusal :=
  .next { s with responses := s.responses ++ [r] }

/-- A response with `rdata` only. -/
def Response.data (v : Word) : Response := ⟨v, false, .none⟩

/-- A response with `rdata` and `rflag`. -/
def Response.flagged (v : Word) (flag : Bool) : Response := ⟨v, flag, .none⟩

/-- A response with a bank event record; `rdata` and `rflag` are 0 (R143, R144). -/
def Response.ofBank (r : BankEvent) : Response := ⟨0#32, false, .bank r⟩

/-- A response with a tick event record; `rdata` and `rflag` are 0 (R174). -/
def Response.ofTick (r : TickEvent) : Response := ⟨0#32, false, .tick r⟩

/-! ## Register files -/

/-- The registers of filter `f`. -/
def State.filter (s : State) (f : Nat) : Filter := s.dbf.getD f Filter.reset

/-- Writes the registers of filter `f`. -/
def State.setFilter (s : State) (f : Nat) (x : Filter) : State := { s with dbf := s.dbf.set f x }

/-- The registers of encoder `e`. -/
def Qed.enc (q : Qed) (e : Nat) : Encoder := q.encs.getD e Encoder.reset

/-- Writes the registers of encoder `e`. -/
def Qed.setEnc (q : Qed) (e : Nat) (x : Encoder) : Qed := { q with encs := q.encs.set e x }

/-- Entry `j` of the binding table. -/
def Eds.slot (d : Eds) (j : Nat) : Slot := d.slots.getD j Slot.reset

/-- A mask with bit `e` cleared. -/
def clearBit (m : Byte) (e : Nat) : Byte := m &&& ~~~(1#8 <<< e)

/-! ## Reset -/

/-- Every register takes its reset value (R63, R114, R250); the parameters and the model's record of the command port
stay. -/
def State.resetBlock (s : State) : State :=
  { s with dbf := List.replicate s.params.nf Filter.reset, eds := Eds.reset s.params, qed := Qed.reset s.params }

/-! ## The debounce technique of 42_edge_status.md R145, R146 (EDS) and 43_encoder_decoder.md R187 (encoder switches) -/

/-- A debounce timer: the candidate whose stability is being timed, the start of the timer, and whether it runs. -/
structure DebounceTimer (α : Type) where
  pend : α
  t0 : Time
  run : Bool
  deriving DecidableEq, Repr

/-- The timer after the compare of R145, before the commit test: a differing vector starts it, the same candidate lets it
run on, a changed candidate restarts it. -/
def restartOnChange {α : Type} [DecidableEq α] (now : Time) (raw : α) (t : DebounceTimer α) : DebounceTimer α :=
  if t.run = false ∨ raw ≠ t.pend then ⟨raw, now, true⟩ else t

/-- One evaluation of the debounce timer for the sampled value `raw` against the committed value `cur`: the timer
afterwards, and whether `raw` is committed. A value equal to the committed one stops the timer; a commit stops it too
(R145, R146, R148, R187, R189). -/
def debounce {α : Type} [DecidableEq α] (p : Params) (window : Nat) (now : Time) (cur raw : α) (t : DebounceTimer α) :
    DebounceTimer α × Bool :=
  if raw = cur then ({ t with run := false }, false)
  else
    let t' := restartOnChange now raw t
    if expired p now t'.t0 window then ({ t' with run := false }, true) else (t', false)

/-! ## The register space (20_memory.md R71 to R73) -/

/-- The value of a numbered register, zero-extended to 32 bits (R72). -/
def readReg (s : State) : Reg → Word
  | .policy f => policyCode (s.filter f).policy
  | .window f => (s.filter f).window.setWidth 32
  | .out f => (s.filter f).out
  | .debounce => s.eds.debounce.setWidth 32
  | .repdly => s.eds.repdly.setWidth 32
  | .repint => s.eds.repint.setWidth 32
  | .lpdly => s.eds.lpdly.setWidth 32
  | .nbind => s.eds.nbind.setWidth 32
  | .cur b => (s.eds.cur.getD b 0#8).setWidth 32
  | .inv => s.qed.inv.setWidth 32
  | .half => s.qed.half.setWidth 32
  | .modewrap => s.qed.modewrap.setWidth 32
  | .swcur => s.qed.swcur.setWidth 32
  | .lplatch => s.qed.lplatch.setWidth 32
  | .nmodes e => (s.qed.enc e).nmodes.setWidth 32

/-- `R(k)`: 0 for a reserved number (R72). -/
def readNumber (s : State) (k : Byte) : Word :=
  match regOf s.params k with
  | some r => readReg s r
  | none => 0#32

/-- The mode an encoder starts in when its mode count is set: 1 if it cycles (`n >= 2`), else 0 (R113, R173). -/
def initialMode (nmodes : Byte) : Byte := if 2 ≤ (nmodes.extractLsb' 0 7).toNat then 1#8 else 0#8

/-- A write of `POLICY[f]` with a legal code stops the timer and takes the output as candidate (R113). -/
def Filter.withPolicy (x : Filter) (c : Policy) : Filter := { x with policy := c, run := false, cand := x.out }

/-- A write of `POLICY[f]`: a value above 2 is ignored (R113). -/
def writePolicy (s : State) (f : Nat) (v : Word) : State :=
  match policyOf v with
  | some c => s.setFilter f ((s.filter f).withPolicy c)
  | none => s

/-- A write of `NMODES[e]` also initialises `MODE[e]` and clears `MODECHG[e]` (R113). -/
def writeNmodes (s : State) (e : Nat) (v : Word) : State :=
  let m := v.setWidth 8
  { s with qed :=
      { s.qed.setEnc e { s.qed.enc e with nmodes := m, mode := initialMode m } with
        modechg := clearBit s.qed.modechg e } }

/-- The effect of a write on a numbered register (R113). A read-only register ignores it (R73). -/
def writeReg (s : State) (r : Reg) (v : Word) : State :=
  let p := s.params
  match r with
  | .policy f => writePolicy s f v
  | .window f => s.setFilter f { s.filter f with window := BitVec.ofNat 16 (clampTo p.ww v) }
  | .debounce => { s with eds := { s.eds with debounce := BitVec.ofNat 16 (clampTo p.ww v) } }
  | .repdly => { s with eds := { s.eds with repdly := BitVec.ofNat 8 (clampTo 8 v) } }
  | .repint => { s with eds := { s.eds with repint := BitVec.ofNat 8 (clampTo 8 v) } }
  | .lpdly => { s with eds := { s.eds with lpdly := BitVec.ofNat 8 (clampTo 8 v) } }
  | .inv => { s with qed := { s.qed with inv := v.setWidth 8 &&& p.emask } }
  | .half => { s with qed := { s.qed with half := v.setWidth 8 &&& p.emask } }
  | .modewrap => { s with qed := { s.qed with modewrap := v.setWidth 8 &&& p.emask } }
  | .nmodes e => writeNmodes s e v
  | .out _ | .nbind | .cur _ | .swcur | .lplatch => s

/-- `W(k, v)`: a reserved number ignores the write (R73). -/
def writeNumber (s : State) (k : Byte) (v : Word) : State :=
  match regOf s.params k with
  | some r => writeReg s r v
  | none => s

/-! ## The command port -/

/-- The block takes a command off the port: the rest stays pending and the operand ports are sampled (R91). -/
def State.sample (s : State) (rest : List HostEvent) (ports : Ports) : State :=
  { s with pending := rest, ports := ports }

/-- A command with a reserved opcode: no state change, zero response (R94, R115). -/
def reservedCommand (s : State) : Host.Outcome State Fault Refusal := respond s Response.zero

/-- The hardware reset input: every register takes its reset value; there is no command and so no response (R250). -/
def hardReset (s : State) : Host.Outcome State Fault Refusal := .next s.resetBlock

/-- Nothing is presented: nothing changes (R245, R259, R269; log entry 4). -/
def idle (s : State) : Host.Outcome State Fault Refusal := .next s

/-- Puts a command word in front: it replaces the word of a command already pending next, or is presented alone with
ports that carry zero. -/
def presentWord (pending : List HostEvent) (w : CommandWord) : List HostEvent :=
  match pending with
  | .command _ ports :: rest => .command w ports :: rest
  | rest => .command w Ports.zero :: rest

end Sys2Proof.Machine
end

