-- ==== Sys2Proof/Machine/Common.lean ====
section
/-! DEFINITION. The common operations NOP, RD, WR, RST (40_common_ops.md R110 to R114). -/

namespace Sys2Proof.Machine

/-- `NOP` (R110). -/
def execNop (s : State) : Host.Outcome State Fault Refusal := respond s Response.zero

/-- `RD k` (R111). -/
def execRd (k : Byte) (s : State) : Host.Outcome State Fault Refusal := respond s (Response.data (readNumber s k))

/-- `WR k` (R112). -/
def execWr (k : Byte) (s : State) : Host.Outcome State Fault Refusal :=
  respond (writeNumber s k s.ports.wdata) Response.zero

/-- `RST` (R114). -/
def execRst (s : State) : Host.Outcome State Fault Refusal := respond s.resetBlock Response.zero

end Sys2Proof.Machine
end

