-- ==== Sys2Proof/Machine/Dbf.lean ====
section
/-! DEFINITION. The debounce filter: DBF.INIT, DBF.UPD, DBF.STAT (41_debounce_filter.md R121 to R126, R131). The three
policy steps are written as the pseudocode of their rules, on the registers of one instance. -/

namespace Sys2Proof.Machine

/-- The holder's timer after the input is seen to differ from the output: started, or restarted on a further value
(R123). -/
def holderTimer (inp : Word) (now : Time) (x : Filter) : Filter :=
  if x.run = false ∨ inp ≠ x.cand then { x with cand := inp, t0 := now, run := true } else x

/-- The candidate becomes the output and the timer stops, if the window has elapsed (R123, R124). -/
def commitExpired (p : Params) (now : Time) (x : Filter) : Filter :=
  if expired p now x.t0 x.window.toNat then { x with out := x.cand, run := false } else x

/-- Holder step (R123). -/
def holderStep (p : Params) (inp : Word) (now : Time) (x : Filter) : Filter :=
  if inp = x.out then { x with run := false } else commitExpired p now (holderTimer inp now x)

/-- The delayer's timer: restarted by every change relative to the previous sample (R124). -/
def delayerTimer (inp : Word) (now : Time) (x : Filter) : Filter :=
  if inp ≠ x.cand then { x with cand := inp, t0 := now, run := true } else x

/-- Delayer step (R124). -/
def delayerStep (p : Params) (inp : Word) (now : Time) (x : Filter) : Filter :=
  let y := delayerTimer inp now x
  if y.run then commitExpired p now y else y

/-- The blanker's timer: the blanking interval ends when the window has elapsed (R125). -/
def blankerTimer (p : Params) (now : Time) (x : Filter) : Filter :=
  if x.run = true ∧ expired p now x.t0 x.window.toNat = true then { x with run := false } else x

/-- Blanker step (R125). -/
def blankerStep (p : Params) (inp : Word) (now : Time) (x : Filter) : Filter :=
  let y := blankerTimer p now x
  if y.run = false ∧ inp ≠ y.out then { y with out := inp, t0 := now, run := true } else y

/-- The step of the instance's policy (R122). -/
def filterStep (p : Params) (inp : Word) (now : Time) (x : Filter) : Filter :=
  match x.policy with
  | .holder => holderStep p inp now x
  | .delayer => delayerStep p inp now x
  | .blanker => blankerStep p inp now x

/-- The registers of an instance after `DBF.INIT` with the value `v`; `T0` is left as it is (R121). -/
def Filter.load (x : Filter) (v : Word) : Filter := { x with out := v, cand := v, run := false }

/-- `DBF.INIT f` (R121); an `f` that selects nothing changes nothing (R131). -/
def execDbfInit (f : Byte) (s : State) : Host.Outcome State Fault Refusal :=
  if f.toNat < s.params.nf then
    respond (s.setFilter f.toNat ((s.filter f.toNat).load (scalarOf s))) (Response.data (scalarOf s))
  else respond s Response.zero

/-- `DBF.UPD f` (R122): `rdata` is the output after the step. -/
def execDbfUpd (f : Byte) (s : State) : Host.Outcome State Fault Refusal :=
  if f.toNat < s.params.nf then
    let x := filterStep s.params (scalarOf s) (nowOf s) (s.filter f.toNat)
    respond (s.setFilter f.toNat x) (Response.data x.out)
  else respond s Response.zero

/-- `DBF.STAT f` (R126). -/
def execDbfStat (f : Byte) (s : State) : Host.Outcome State Fault Refusal :=
  if f.toNat < s.params.nf then respond s (Response.data (s.filter f.toNat).out)
  else respond s Response.zero

end Sys2Proof.Machine
end

