-- ==== Sys2Proof/Machine/Eds.lean ====
section
/-! DEFINITION. The edge detector and status distributor: EDS.INIT, EDS.POLL, EDS.BIND, EDS.NEXT (42_edge_status.md R143
to R157). One poll is a sequence of steps over a working record, in the order of R144. -/

namespace Sys2Proof.Machine

/-- The working record of one `EDS.POLL` or `EDS.INIT`: the EDS registers and the per-poll bank arrays `DN`, `UP`, `RPT`,
`LNG`, which are not state (R42). -/
structure Poll where
  eds : Eds
  dn : List Byte
  up : List Byte
  rpt : List Byte
  lng : List Byte
  deriving DecidableEq, Repr

/-- The per-poll arrays start empty (R144). -/
def startPoll (p : Params) (d : Eds) : Poll :=
  let zeros := List.replicate p.nb 0#8
  ⟨d, zeros, zeros, zeros, zeros⟩

/-- Commit of the vector `new` (R147), and the timers (R148). -/
def commitVector (new : List Byte) (now : Time) (w : Poll) : Poll :=
  let up := List.zipWith upEdges new w.eds.cur
  { w with
    dn := List.zipWith downEdges new w.eds.cur
    up := up
    eds :=
      { w.eds with
        cur := new
        lpdone := List.zipWith clearReleased w.eds.lpdone up
        debrun := false
        anchor := now
        repph := false
        lparm := true } }

/-- Steps 1 and 2: compare, timer, commit test and commit (R145 to R148). -/
def pollDebounce (p : Params) (raw : List Byte) (now : Time) (w : Poll) : Poll :=
  let d := w.eds
  let r := debounce p d.debounce.toNat now d.cur raw ⟨d.pend, d.debt0, d.debrun⟩
  let w' := { w with eds := { d with pend := r.1.pend, debt0 := r.1.t0, debrun := r.1.run } }
  if r.2 then commitVector raw now w' else w'

/-- The repeat timer fires in this poll (R149); a zero delay or interval disables it (R150). -/
def repeatFires (p : Params) (now : Time) (d : Eds) : Bool :=
  d.repdly != 0#8 && d.repint != 0#8 &&
    (if d.repph then expired p now d.rept0 (10 * d.repint.toNat) else expired p now d.anchor (100 * d.repdly.toNat))

/-- Step 3, repeat timer: at most one firing per poll, measured on from this `now` (R149). -/
def pollRepeat (p : Params) (now : Time) (w : Poll) : Poll :=
  if repeatFires p now w.eds then
    { w with rpt := w.eds.cur.map activeLines, eds := { w.eds with repph := true, rept0 := now } }
  else w

/-- The long-press timer fires in this poll (R151); a zero delay disables it (R152). -/
def longFires (p : Params) (now : Time) (d : Eds) : Bool :=
  d.lpdly != 0#8 && d.lparm && expired p now d.anchor (100 * d.lpdly.toNat)

/-- Step 3, long-press timer (R151). -/
def pollLong (p : Params) (now : Time) (w : Poll) : Poll :=
  if longFires p now w.eds then
    let lng := List.zipWith longLines w.eds.cur w.eds.lpdone
    { w with
      lng := lng
      eds := { w.eds with lpdone := List.zipWith (· ||| ·) w.eds.lpdone lng, lparm := false } }
  else w

/-- Steps 1 to 3 of one poll (R144). -/
def pollSteps (p : Params) (raw : List Byte) (now : Time) (d : Eds) : Poll :=
  pollLong p now (pollRepeat p now (pollDebounce p raw now (startPoll p d)))

/-- `status(i)` (R153). -/
def statusOf (w : Poll) (i : Nat) : StatusCode :=
  packStatus (lineBit w.lng i) (lineBit w.rpt i) (lineBit w.up i) (lineBit w.dn i) (lineBit w.eds.cur i)

/-- The delivery to slot `j` (R154): a bypass slot gets status 0. -/
def deliveryTo (kind : DeliveryKind) (w : Poll) (j : Nat) : Delivery :=
  let t := w.eds.slot j
  ⟨j, kind, t.byp, if t.byp then 0#5 else statusOf w t.pin.toNat⟩

/-- Step 4: one delivery per bound slot, in ascending order (R154). -/
def deliveriesOf (kind : DeliveryKind) (w : Poll) : List Delivery :=
  (List.range w.eds.nbind.toNat).map (deliveryTo kind w)

/-- The bank event record (R155). -/
def bankEventOf (kind : DeliveryKind) (w : Poll) : BankEvent :=
  ⟨kind, w.eds.cur, w.dn, w.up, w.rpt, w.lng, deliveriesOf kind w⟩

/-- The registers after `EDS.INIT`: the vector is taken as committed, the timers start as after a commit (R143). -/
def Eds.load (d : Eds) (raw : List Byte) (now : Time) : Eds :=
  { d with
    cur := raw
    pend := raw
    lpdone := raw.map (fun _ => 0#8)
    debrun := false
    anchor := now
    repph := false
    rept0 := now
    lparm := true }

/-- `EDS.INIT` (R143). -/
def execEdsInit (s : State) : Host.Outcome State Fault Refusal :=
  let w := startPoll s.params (s.eds.load (rawBanksOf s) (nowOf s))
  respond { s with eds := w.eds } (Response.ofBank (bankEventOf .init w))

/-- `EDS.POLL` (R144). -/
def execEdsPoll (s : State) : Host.Outcome State Fault Refusal :=
  let w := pollSteps s.params (rawBanksOf s) (nowOf s) s.eds
  respond { s with eds := w.eds } (Response.ofBank (bankEventOf .check w))

/-- The table with one slot appended (R156). -/
def Eds.append (d : Eds) (t : Slot) : Eds :=
  { d with slots := d.slots.set d.nbind.toNat t, nbind := d.nbind + 1#8 }

/-- `EDS.BIND pin` (R156): a full table, or a pin out of range that is no tag, is refused with the sentinel. -/
def execEdsBind (pin : Byte) (s : State) : Host.Outcome State Fault Refusal :=
  if s.eds.nbind.toNat = s.params.nslot then respond s (Response.data sentinel)
  else if bypassOf s = false ∧ s.params.npin ≤ pin.toNat then respond s (Response.data sentinel)
  else respond { s with eds := s.eds.append ⟨bypassOf s, pin⟩ } (Response.data (s.eds.nbind.setWidth 32))

/-- The cursor after one round-robin step (R157). -/
def Eds.nextCursor (d : Eds) : Byte := if d.cursor.toNat + 1 = d.nbind.toNat then 0#8 else d.cursor + 1#8

/-- The descriptor `{0[31:17], byp, pin, cursor}` of the slot at the cursor (R157). -/
def Eds.descriptor (d : Eds) : Word :=
  let t := d.slot d.cursor.toNat
  0#15 ++ BitVec.ofBool t.byp ++ t.pin ++ d.cursor

/-- `EDS.NEXT` (R157). -/
def execEdsNext (s : State) : Host.Outcome State Fault Refusal :=
  if s.eds.nbind = 0#8 then respond s (Response.data sentinel)
  else respond { s with eds := { s.eds with cursor := s.eds.nextCursor } } (Response.data s.eds.descriptor)

end Sys2Proof.Machine
end

