-- ==== Sys2Proof/Machine/Qed.lean ====
section
/-! DEFINITION. The quadrature-encoder decoder: QED.INIT, QED.UPD and the read API (43_encoder_decoder.md R173 to R197,
R200). One tick is a sequence of steps over a working record, in the order of R174. -/

namespace Sys2Proof.Machine

/-- The working record of one `QED.UPD`: the QED registers and the per-tick masks, which are not state (R59). -/
structure Tick where
  qed : Qed
  ev : TickEvent
  deriving DecidableEq, Repr

/-- The all-zero record (R175). -/
def TickEvent.zero : TickEvent := ⟨0#8, 0#8, 0#8, 0#8, 0#8, 0#8, 0#8, 0#8, 0#8⟩

/-! ## Rotation: R178 to R186 -/

/-- The step magnitude and the `quick` flag of a trigger (R181). -/
def stepOf (p : Params) (now : Time) (x : Encoder) : Nat × Bool :=
  if x.trigv = true ∧ elapsed p now x.trigt < p.tVfast then (p.stepVfast, true)
  else if x.trigv = true ∧ elapsed p now x.trigt < p.tFast then (p.stepFast, true)
  else (1, false)

/-- The count after a trigger, in CW-bit two's complement (R182). -/
def countAfter (p : Params) (up : Bool) (count : Word) (step : Nat) : Word :=
  keepSigned p.cw (if up then count + BitVec.ofNat 32 step else count - BitVec.ofNat 32 step)

/-- One encoder in the rotation steps: a trigger changes the count and records its time (R181, R182). -/
def rotateEncoder (p : Params) (now : Time) (up dn : Bool) (x : Encoder) : Encoder :=
  if up || dn then { x with count := countAfter p up x.count (stepOf p now x).1, trigt := now, trigv := true } else x

/-- The encoders whose next trigger would be accelerated (R181). -/
def quickMask (p : Params) (now : Time) (encs : List Encoder) : Byte :=
  maskOf (encs.map fun x => (stepOf p now x).2)

/-- The pulse masks `up` and `dn` of the vector `v` against the previous one (R178 to R180, R183). -/
def pulsesOf (p : Params) (v : Planes) (q : Qed) : Byte × Byte :=
  let a1 := inverted p q.inv v.a
  let a0 := inverted p q.inv q.prev.a
  let rise := riseMask a1 a0
  let fall := fallMask q.half a1 a0
  (upPulses rise fall v.b, downPulses rise fall v.b)

/-- Steps 3 to 5 of a tick whose vector differs from the previous one (R178 to R186). -/
def tickRotate (p : Params) (v : Planes) (now : Time) (w : Tick) : Tick :=
  let q := w.qed
  let up := (pulsesOf p v q).1
  let dn := (pulsesOf p v q).2
  let quick := quickMask p now q.encs
  { ev := { w.ev with up := up, dn := dn, qup := up &&& quick, qdn := dn &&& quick }
    qed :=
      { q with
        encs := q.encs.mapIdx fun e x => rotateEncoder p now (up.getLsbD e) (dn.getLsbD e) x
        chgup := q.chgup ||| up
        chgdn := q.chgdn ||| dn
        chgqup := q.chgqup ||| (up &&& quick)
        chgqdn := q.chgqdn ||| (dn &&& quick)
        cntchg := q.cntchg ||| up ||| dn
        prev := v } }

/-- Step 2: an unchanged vector skips the rotation steps only (R177). -/
def tickLines (p : Params) (v : Planes) (now : Time) (w : Tick) : Tick :=
  if v = w.qed.prev then w else tickRotate p v now w

/-! ## Switches: R187 to R190 -/

/-- Commit of the switch pattern `pat` (R188, R189). -/
def commitSwitches (pat : Byte) (now : Time) (w : Tick) : Tick :=
  let q := w.qed
  { ev :=
      { w.ev with
        act := activated pat q.swcur
        deact := deactivated pat q.swcur
        tog := toggled pat q.swcur
        shortp := shortPresses pat q.swcur q.lplatch }
    qed := { q with lplatch := q.lplatch &&& pat, swcur := pat, swrun := false, patt0 := now, qlparm := true } }

/-- Step 6, switch debounce (R187) with the commit of R188, R189. -/
def tickSwitches (p : Params) (pat : Byte) (now : Time) (w : Tick) : Tick :=
  let q := w.qed
  let r := debounce p p.swDebounce now q.swcur pat ⟨q.swpend, q.swt0, q.swrun⟩
  let w' := { w with qed := { q with swpend := r.1.pend, swt0 := r.1.t0, swrun := r.1.run } }
  if r.2 then commitSwitches pat now w' else w'

/-- The pattern long-press fires in this tick (R190). -/
def patternFires (p : Params) (now : Time) (q : Qed) : Bool :=
  q.qlparm && q.swcur != 0#8 && expired p now q.patt0 (10 * p.encLpt)

/-- Step 6, pattern long-press (R190). -/
def tickLong (p : Params) (now : Time) (w : Tick) : Tick :=
  let q := w.qed
  if patternFires p now q then
    { ev := { w.ev with longp := longPresses q.swcur q.lplatch }
      qed := { q with lplatch := q.lplatch ||| q.swcur, qlparm := false } }
  else w

/-! ## Modes: R191 to R193 -/

/-- The mode of a cycling encoder with `n` modes, incremented: past `n` it wraps to 1 or clamps at `n` (R191). -/
def incrementMode (wrap : Bool) (n : Nat) (mode : Byte) : Byte :=
  if n ≤ mode.toNat then (if wrap then 1#8 else BitVec.ofNat 8 n) else mode + 1#8

/-- The mode after a tick of an encoder with mode byte `nmodes` (R191 to R193). -/
def nextMode (wrap held shortp longp : Bool) (nmodes mode : Byte) : Byte :=
  let n := (nmodes.extractLsb' 0 7).toNat
  let onlong := nmodes.getLsbD 7
  if n = 0 then mode
  else if n = 1 then (if onlong then mode else if held then 1#8 else 0#8)
  else if (if onlong then longp else shortp) then incrementMode wrap n mode
  else mode

/-- The mode of encoder `e` after a tick with record `ev` (R191). -/
def modeAfter (q : Qed) (ev : TickEvent) (e : Nat) (x : Encoder) : Byte :=
  nextMode (q.modewrap.getLsbD e) (q.swcur.getLsbD e) (ev.shortp.getLsbD e) (ev.longp.getLsbD e) x.nmodes x.mode

/-- Step 7: mode cycling of every encoder; a change sets `MODECHG[e]` (R191). -/
def tickModes (w : Tick) : Tick :=
  let q := w.qed
  { w with qed :=
      { q with
        encs := q.encs.mapIdx fun e x => { x with mode := modeAfter q w.ev e x }
        modechg := q.modechg ||| maskOf (q.encs.mapIdx fun e x => modeAfter q w.ev e x != x.mode) } }

/-! ## QED.INIT and QED.UPD -/

/-- One encoder after `QED.INIT`; `TRIGT` and `NMODES` are left as they are (R173). -/
def Encoder.load (x : Encoder) : Encoder :=
  { x with count := 0#32, trigv := false, mode := initialMode x.nmodes }

/-- The registers after `QED.INIT`; `INV`, `HALF`, `MODEWRAP`, `NMODES` are untouched (R173). -/
def Qed.load (q : Qed) (v : Planes) (now : Time) : Qed :=
  { q with
    prev := v
    swcur := v.s
    swpend := v.s
    swrun := false
    swt0 := now
    patt0 := now
    qlparm := true
    lplatch := 0#8
    lasttick := now
    encs := q.encs.map Encoder.load
    chgup := 0#8
    chgdn := 0#8
    chgqup := 0#8
    chgqdn := 0#8
    cntchg := 0#8
    modechg := 0#8 }

/-- `QED.INIT` (R173). -/
def execQedInit (s : State) : Host.Outcome State Fault Refusal :=
  respond { s with qed := s.qed.load (planesOf s) (nowOf s) } Response.zero

/-- A processed tick (R174 after step 1). -/
def tickSteps (p : Params) (v : Planes) (now : Time) (q : Qed) : Tick :=
  tickModes (tickLong p now (tickSwitches p v.s now (tickLines p v now ⟨{ q with lasttick := now }, TickEvent.zero⟩)))

/-- One tick: skipped whole if no time has passed since the last processed one (R176). -/
def tick (p : Params) (v : Planes) (now : Time) (q : Qed) : Tick :=
  if elapsed p now q.lasttick = 0 then ⟨q, TickEvent.zero⟩ else tickSteps p v now q

/-- `QED.UPD` (R174, R175). -/
def execQedUpd (s : State) : Host.Outcome State Fault Refusal :=
  let w := tick s.params (planesOf s) (nowOf s) s.qed
  respond { s with qed := w.qed } (Response.ofTick w.ev)

/-! ## The read API -/

/-- `QED.RDACC e` (R194); an `e` that selects nothing changes nothing (R200). -/
def execQedRdacc (e : Byte) (s : State) : Host.Outcome State Fault Refusal :=
  if e.toNat < s.params.ne then
    let x := s.qed.enc e.toNat
    respond { s with qed := s.qed.setEnc e.toNat { x with count := 0#32 } } (Response.data x.count)
  else respond s Response.zero

/-- `QED.RDABS e` (R195, R200). -/
def execQedRdabs (e : Byte) (s : State) : Host.Outcome State Fault Refusal :=
  if e.toNat < s.params.ne then
    respond { s with qed := { s.qed with cntchg := clearBit s.qed.cntchg e.toNat } }
      (Response.flagged (s.qed.enc e.toNat).count (s.qed.cntchg.getLsbD e.toNat))
  else respond s Response.zero

/-- `QED.RDMODE e` (R196, R200). -/
def execQedRdmode (e : Byte) (s : State) : Host.Outcome State Fault Refusal :=
  if e.toNat < s.params.ne then
    respond { s with qed := { s.qed with modechg := clearBit s.qed.modechg e.toNat } }
      (Response.flagged ((s.qed.enc e.toNat).mode.setWidth 32) (s.qed.modechg.getLsbD e.toNat))
  else respond s Response.zero

/-- `QED.RDTRN` (R197). -/
def execQedRdtrn (s : State) : Host.Outcome State Fault Refusal :=
  respond { s with qed := { s.qed with chgup := 0#8, chgdn := 0#8, chgqup := 0#8, chgqdn := 0#8 } }
    (Response.data (s.qed.chgqdn ++ s.qed.chgqup ++ s.qed.chgdn ++ s.qed.chgup))

end Sys2Proof.Machine
end

