-- ==== Sys2Proof/Machine/Dispatch.lean ====
section
/-! DEFINITION. One arm per operation, each one call of its meaning. -/

namespace Sys2Proof.Machine

def exec (i : Instr) (s : State) : Host.Outcome State Fault Refusal :=
  match i with
  | .nop => Sys2Proof.Machine.execNop s
  | .rd k => Sys2Proof.Machine.execRd k s
  | .wr k => Sys2Proof.Machine.execWr k s
  | .rst => Sys2Proof.Machine.execRst s
  | .dbfInit f => Sys2Proof.Machine.execDbfInit f s
  | .dbfUpd f => Sys2Proof.Machine.execDbfUpd f s
  | .dbfStat f => Sys2Proof.Machine.execDbfStat f s
  | .edsInit => Sys2Proof.Machine.execEdsInit s
  | .edsPoll => Sys2Proof.Machine.execEdsPoll s
  | .edsBind pin => Sys2Proof.Machine.execEdsBind pin s
  | .edsNext => Sys2Proof.Machine.execEdsNext s
  | .qedInit => Sys2Proof.Machine.execQedInit s
  | .qedUpd => Sys2Proof.Machine.execQedUpd s
  | .qedRdacc e => Sys2Proof.Machine.execQedRdacc e s
  | .qedRdabs e => Sys2Proof.Machine.execQedRdabs e s
  | .qedRdmode e => Sys2Proof.Machine.execQedRdmode e s
  | .qedRdtrn => Sys2Proof.Machine.execQedRdtrn s

end Sys2Proof.Machine
end

