-- ==== Sys2Proof/Machine/Step.lean ====
section
/-! DEFINITION. One step of the machine (00_scope.md R14, 70_reset_and_hazards.md R250, R269): the host's next event is
taken. A command is decoded and performed; a reserved opcode is performed as 30_encoding.md R94 says. -/

namespace Sys2Proof.Machine

/-- One step. With nothing presented the block stays as it is (log entry 4). -/
def step (s : State) : Host.Outcome State Fault Refusal :=
  match s.pending with
  | [] => idle s
  | .hardReset :: rest => hardReset { s with pending := rest }
  | .command word ports :: rest =>
    match decode word with
    | .ok i => exec i (s.sample rest ports)
    | .error _ => reservedCommand (s.sample rest ports)

/-- `s` with the command word whose bits are `w` presented next (log entry 3): the next step decodes and performs exactly
it. A command is 16 bits long, so `nbits` adds nothing. -/
def State.withFetchWord (s : State) (_nbits w : Nat) : State :=
  { s with pending := presentWord s.pending (BitVec.ofNat 16 w) }

end Sys2Proof.Machine
end

