-- ==== Sys2Proof/Machine/Assembler.lean ====
section
/-! DEFINITION. The assembler of 30_encoding.md R97 to R99: the text of a line, the scaled-byte conversions, and the
pseudo-instructions. It says how a test program is written down; no step of the machine calls it. What it answers for a
line that is not in the syntax, the spec does not say: it answers `none` (assumption log entry 18; 19 for a register that
R71 gives no number, 20 to 24 for what R98 leaves open of a line). -/

namespace Sys2Proof.Machine

/-! ## Scaled bytes (R97) -/

/-- A millisecond quantity in units of `unit` ms, rounded to nearest with ties upward, 0 only for 0, at most 255 (R97). -/
def scaledByte (unit ms : Nat) : Nat := if ms = 0 then 0 else min 255 (max 1 ((ms + unit / 2) / unit))

/-- `q100(ms)` (R97). -/
def q100 (ms : Nat) : Nat := scaledByte 100 ms

/-- `q10(ms)` (R97). -/
def q10 (ms : Nat) : Nat := scaledByte 10 ms

/-! ## Register names (R98) -/

/-- The number `base + stride * i`, if `i` is below `count`. -/
def numberAt (base stride count i : Nat) : Option Nat := if i < count then some (base + stride * i) else none

/-- The number that R71 gives a register: the table has room for 16 filters, 16 banks and 8 encoders, whatever NF, NB and
NE are. DESIGN CHOICE (assumption log entry 19): an index for which the table has no number (`POLICY[16]`, `CUR[16]`,
`NMODES[8]`) gives none, so a line that names such a register assembles to nothing; an index that has a number and no
register in the implementation at hand gives that number, which is then a reserved one. -/
def regNumber : Reg → Option Nat
  | .policy f => numberAt 0x40 4 16 f
  | .window f => numberAt 0x41 4 16 f
  | .out f => numberAt 0x42 4 16 f
  | .debounce => some 0x80
  | .repdly => some 0x81
  | .repint => some 0x82
  | .lpdly => some 0x83
  | .nbind => some 0x84
  | .cur b => numberAt 0x90 1 16 b
  | .inv => some 0xC0
  | .half => some 0xC1
  | .modewrap => some 0xC2
  | .swcur => some 0xC3
  | .lplatch => some 0xC4
  | .nmodes e => numberAt 0xC8 1 8 e

/-- A register with one name. -/
def namedReg (name : String) : Option Reg :=
  if name = "DEBOUNCE" then some .debounce
  else if name = "REPDLY" then some .repdly
  else if name = "REPINT" then some .repint
  else if name = "LPDLY" then some .lpdly
  else if name = "NBIND" then some .nbind
  else if name = "INV" then some .inv
  else if name = "HALF" then some .half
  else if name = "MODEWRAP" then some .modewrap
  else if name = "SWCUR" then some .swcur
  else if name = "LPLATCH" then some .lplatch
  else none

/-- A register with a name and an index in brackets. -/
def indexedReg (name : String) (i : Nat) : Option Reg :=
  if name = "POLICY" then some (.policy i)
  else if name = "WINDOW" then some (.window i)
  else if name = "OUT" then some (.out i)
  else if name = "CUR" then some (.cur i)
  else if name = "NMODES" then some (.nmodes i)
  else none

/-! ## From characters to a line (R98) -/

/-- The tokens of a line. -/
inductive Token where
  | word (s : String)
  | comma
  | equals
  | opening
  | closing
  deriving DecidableEq, Repr

/-- The word collected so far, if any, in front of the following tokens. -/
def flushWord (acc : List Char) (rest : List Token) : List Token :=
  if acc = [] then rest else .word (String.ofList acc.reverse) :: rest

/-- The tokens of a line; a semicolon starts a comment. Which characters separate words, and that names are written in the
spec's own capitals, is the model's choice (DESIGN CHOICE, assumption log entry 24). -/
def tokensOf (acc : List Char) : List Char → List Token
  | [] => flushWord acc []
  | c :: cs =>
    if c = ';' then flushWord acc []
    else if c = ' ' ∨ c = '\t' then flushWord acc (tokensOf [] cs)
    else if c = ',' then flushWord acc (.comma :: tokensOf [] cs)
    else if c = '=' then flushWord acc (.equals :: tokensOf [] cs)
    else if c = '[' then flushWord acc (.opening :: tokensOf [] cs)
    else if c = ']' then flushWord acc (.closing :: tokensOf [] cs)
    else tokensOf (c :: acc) cs

/-- The value of a digit below the base. -/
def digitValue (base : Nat) (c : Char) : Option Nat :=
  let n := c.toNat
  let v := if 48 ≤ n ∧ n ≤ 57 then n - 48 else if 65 ≤ n ∧ n ≤ 70 then n - 55 else if 97 ≤ n ∧ n ≤ 102 then n - 87 else 16
  if v < base then some v else none

/-- The value of a row of digits, most significant first, after the value read so far. -/
def digitsValue (base acc : Nat) : List Char → Option Nat
  | [] => some acc
  | c :: cs => (digitValue base c).bind fun v => digitsValue base (base * acc + v) cs

/-- A decimal or `0x` hexadecimal number (R98). -/
def numberOf (w : String) : Option Nat :=
  match w.toList with
  | [] => none
  | '0' :: 'x' :: d :: ds => digitsValue 16 0 (d :: ds)
  | cs => digitsValue 10 0 cs

/-- An operand of a line: a number, a name, a name with an index, or a port with its value. -/
inductive Operand where
  | number (n : Nat)
  | name (w : String)
  | indexed (w : String) (i : Nat)
  | port (w : String) (n : Nat)
  | banks (w : String) (ns : List Nat)
  deriving DecidableEq, Repr

/-- Cuts a row of tokens at the commas that stand outside brackets. -/
def splitOperands (inside : Bool) (acc : List Token) : List Token → List (List Token)
  | [] => [acc.reverse]
  | .comma :: ts => if inside then splitOperands inside (.comma :: acc) ts else acc.reverse :: splitOperands false [] ts
  | .opening :: ts => splitOperands true (.opening :: acc) ts
  | .closing :: ts => splitOperands false (.closing :: acc) ts
  | t :: ts => splitOperands inside (t :: acc) ts

/-- The numbers of a bracketed list, from behind the opening bracket. -/
def listOf : List Token → Option (List Nat)
  | [.word w, .closing] => (numberOf w).map fun n => [n]
  | .word w :: .comma :: ts => (numberOf w).bind fun n => (listOf ts).map fun ns => n :: ns
  | _ => none

/-- The operand that a group of tokens stands for. -/
def operandOf (g : List Token) : Option Operand :=
  match g with
  | [.word w] =>
    match numberOf w with
    | some n => some (.number n)
    | none => some (.name w)
  | [.word w, .opening, .word i, .closing] => (numberOf i).map fun n => .indexed w n
  | [.word w, .equals, .word v] => (numberOf v).map fun n => .port w n
  | .word w :: .equals :: .opening :: ts => (listOf ts).map fun ns => .banks w ns
  | _ => none

/-! ## From a line to a command -/

/-- The button vector with the given bank bytes, bank 0 first (R74). DESIGN CHOICE (assumption log entry 20): a bank for
which a shorter list has no byte gets 0, of a number above 255 the low byte is taken, and bytes beyond the 16th are
dropped. -/
def buttonVectorOf : List Nat → ButtonVector
  | [] => 0#128
  | b :: bs => (buttonVectorOf bs <<< 8) ||| BitVec.ofNat 128 (b % 256)

/-- The ports with one port value given by name (R98): `raw` is a list for `raw_btn` and a number for `raw_enc`. DESIGN
CHOICE (assumption log entry 21): the form of the value says which of the two ports it is, whatever the operation, so
`EDS.POLL raw=5` gives `raw_enc`, which `EDS.POLL` ignores (R91), and leaves `raw_btn` not named. -/
def setPort (ports : Ports) : Operand → Option Ports
  | .port w n =>
    if w = "wdata" then some { ports with wdata := BitVec.ofNat 32 n }
    else if w = "now" then some { ports with now := BitVec.ofNat 64 n }
    else if w = "raw" then some { ports with rawEnc := BitVec.ofNat 32 n }
    else none
  | .banks w ns => if w = "raw" then some { ports with rawBtn := buttonVectorOf ns } else none
  | _ => none

/-- The ports that a row of port operands gives, in any order; a port not given keeps the value it had. DESIGN CHOICE
(assumption log entry 23): of a port given more than once the last value stands. -/
def portsFrom (ports : Ports) : List Operand → Option Ports
  | [] => some ports
  | o :: os => (setPort ports o).bind fun q => portsFrom q os

/-- The command of an operation with the given port operands. -/
def commandOf (i : Instr) (os : List Operand) : Option HostEvent :=
  (portsFrom Ports.zero os).map fun q => .command (encode i) q

/-- The command of an operation that takes an index: the first operand, a number below 256. -/
def indexedCommand (mk : Byte → Instr) : List Operand → Option HostEvent
  | .number n :: os => if n < 256 then commandOf (mk (BitVec.ofNat 8 n)) os else none
  | _ => none

/-- The command of an operation on a register: the register's number stands for it (R98). -/
def numberedCommand (mk : Byte → Instr) (r : Reg) (os : List Operand) : Option HostEvent :=
  (regNumber r).bind fun k => indexedCommand mk (.number k :: os)

/-- The command of `RD` or `WR`: the first operand is a register number, or the name of a register (R98). -/
def registerCommand (mk : Byte → Instr) : List Operand → Option HostEvent
  | .name w :: os => (namedReg w).bind fun r => numberedCommand mk r os
  | .indexed w i :: os => (indexedReg w i).bind fun r => numberedCommand mk r os
  | os => indexedCommand mk os

/-- `WR k, wdata=v`, `k` the number of a register. -/
def writeCommand (r : Reg) (v : Nat) : Option HostEvent := numberedCommand .wr r [.port "wdata" v]

/-- The operations, each under its mnemonic (R93, R98). -/
def operationLine (m : String) (os : List Operand) : Option HostEvent :=
  if m = "NOP" then commandOf .nop os
  else if m = "RD" then registerCommand .rd os
  else if m = "WR" then registerCommand .wr os
  else if m = "RST" then commandOf .rst os
  else if m = "DBF.INIT" then indexedCommand .dbfInit os
  else if m = "DBF.UPD" then indexedCommand .dbfUpd os
  else if m = "DBF.STAT" then indexedCommand .dbfStat os
  else if m = "EDS.INIT" then commandOf .edsInit os
  else if m = "EDS.POLL" then commandOf .edsPoll os
  else if m = "EDS.BIND" then indexedCommand .edsBind os
  else if m = "EDS.NEXT" then commandOf .edsNext os
  else if m = "QED.INIT" then commandOf .qedInit os
  else if m = "QED.UPD" then commandOf .qedUpd os
  else if m = "QED.RDACC" then indexedCommand .qedRdacc os
  else if m = "QED.RDABS" then indexedCommand .qedRdabs os
  else if m = "QED.RDMODE" then indexedCommand .qedRdmode os
  else if m = "QED.RDTRN" then commandOf .qedRdtrn os
  else none

/-- The value `SET.POLICY` writes (R99). -/
def policyValue (w : String) : Option Nat :=
  if w = "holder" then some 0 else if w = "delayer" then some 1 else if w = "blanker" then some 2 else none

/-- The pseudo-instructions whose one operand is a number (R99). -/
def setLine (m : String) (v : Nat) : Option HostEvent :=
  if m = "SET.DEBOUNCE" then writeCommand .debounce v
  else if m = "SET.REPDLY" then writeCommand .repdly (q100 v)
  else if m = "SET.REPINT" then writeCommand .repint (q10 v)
  else if m = "SET.LPDLY" then writeCommand .lpdly (q100 v)
  else if m = "SET.INV" then writeCommand .inv v
  else if m = "SET.HALF" then writeCommand .half v
  else if m = "SET.MODEWRAP" then writeCommand .modewrap v
  else if m = "BIND" then indexedCommand .edsBind [.number v, .port "wdata" 0]
  else if m = "BIND.BYPASS" then indexedCommand .edsBind [.number v, .port "wdata" 1]
  else none

/-- The pseudo-instructions (R99). -/
def pseudoLine (m : String) (os : List Operand) : Option HostEvent :=
  if m = "status()" then indexedCommand .dbfStat os
  else if m = "checkButtons" then commandOf .edsPoll os
  else if m = "initButtons" then commandOf .edsInit os
  else if m = "update" then commandOf .qedUpd os
  else
    match os with
    | [.number v] => setLine m v
    | [.number f, .name c] =>
      if m = "SET.POLICY" then (policyValue c).bind fun v => writeCommand (.policy f) v else none
    | [.number i, .number v] =>
      if m = "SET.WINDOW" then writeCommand (.window i) v
      else if m = "SET.NMODES" then writeCommand (.nmodes i) v
      else none
    | [.number e, .number n, .name w] =>
      if m = "SET.NMODES" ∧ w = "long" then writeCommand (.nmodes e) (n + 128) else none
    | _ => none

/-- The command of a mnemonic with its operands. -/
def lineCommand (m : String) (os : List Operand) : Option HostEvent :=
  match operationLine m os with
  | some c => some c
  | none => pseudoLine m os

/-- The operands of a row of tokens cut at its commas. -/
def operandRow (ts : List Token) : Option (List Operand) := (splitOperands false [] ts).mapM operandOf

/-- Whether an operand is a port value. -/
def Operand.isPort : Operand → Bool
  | .port _ _ | .banks _ _ => true
  | .number _ | .name _ | .indexed _ _ => false

/-- A row of operands that begins with a port value. -/
def portsFirst (os : List Operand) : Option (List Operand) := if (os.head?.map Operand.isPort) = some true then some os else none

/-- The operands behind a mnemonic. DESIGN CHOICE (assumption log entry 22): where the operation takes no index, the comma
in front of the first port may stand, as the form `MNEMONIC [k] [, port=value]...` of R98 has it, or be left out, as the
lines of R99 and R143 do. In front of an index no comma stands. -/
def operandsOf : List Token → Option (List Operand)
  | [] => some []
  | .comma :: ts => (operandRow ts).bind portsFirst
  | ts => operandRow ts

/-- A line of text: no command for an empty or a comment line, else one command; `none` if it is not in the syntax of R98
and no pseudo-instruction of R99. -/
def assembleLine (text : List Char) : Option (List HostEvent) :=
  match tokensOf [] text with
  | [] => some []
  | .word m :: ts => (operandsOf ts).bind fun os => (lineCommand m os).map fun c => [c]
  | _ => none

/-- A program: one line after the other; none if a line has no meaning (DESIGN CHOICE, assumption log entry 24). -/
def assemble : List (List Char) → Option (List HostEvent)
  | [] => some []
  | l :: ls => (assembleLine l).bind fun xs => (assemble ls).map fun ys => xs ++ ys

/-- One hexadecimal digit, a capital letter above 9 (DESIGN CHOICE, assumption log entry 24). -/
def hexDigit (n : Nat) : Char := if n < 10 then Char.ofNat (48 + n) else Char.ofNat (55 + n)

/-- A command word written as four hexadecimal digits (R98). -/
def wordText (w : CommandWord) : List Char :=
  [hexDigit (w.toNat / 4096 % 16), hexDigit (w.toNat / 256 % 16), hexDigit (w.toNat / 16 % 16), hexDigit (w.toNat % 16)]

end Sys2Proof.Machine
end

