-- ==== Sys2Proof/Safety.lean ====
section
/-! DEFINITION. What a good state is, in the terms the statements use: the sizes and ranges 10_state.md gives the
registers, and the relations between registers that its rules name. Each is a decidable proposition over one state.
A run is safe when every step of it completes; 60_exceptions.md R230 says that every run is. -/

namespace Sys2Proof.Machine

/-- A run of `n` steps completes. -/
def RunCompletes (s : State) (n : Nat) : Prop := ∃ t, Sys2Proof.core.run n s = .next t

/-- `s` after one more response has been given, nothing else changed. -/
abbrev State.answered (s : State) (rdata : Word) (rflag : Bool) (evt : EventRecord := .none) : State :=
  { s with responses := s.responses ++ [⟨rdata, rflag, evt⟩] }

/-- The parameters are legal (R6) and every register file has as many entries as they say (R20, R40). -/
abbrev State.Sized (s : State) : Prop :=
  s.params.Legal ∧
  s.dbf.length = s.params.nf ∧
  s.eds.cur.length = s.params.nb ∧
  s.eds.pend.length = s.params.nb ∧
  s.eds.lpdone.length = s.params.nb ∧
  s.eds.slots.length = s.params.nslot ∧
  s.qed.encs.length = s.params.ne

/-- The registers of a filter hold values of their widths (R24 to R27). -/
abbrev Filter.InRange (p : Params) (x : Filter) : Prop :=
  x.window.toNat < 2 ^ p.ww ∧ x.out.toNat < 2 ^ p.vw ∧ x.cand.toNat < 2 ^ p.vw ∧ x.t0.toNat < 2 ^ p.tw

/-- The registers of an encoder hold values of their widths; the count is in its sign-extended form (R49, R50). -/
abbrev Encoder.InRange (p : Params) (x : Encoder) : Prop :=
  keepSigned p.cw x.count = x.count ∧ x.trigt.toNat < 2 ^ p.tw

/-- Every register holds a value of its width (R24 to R27, R29, R35 to R37, R47, R49, R50, R56, R57). -/
abbrev State.InRange (s : State) : Prop :=
  (∀ x ∈ s.dbf, x.InRange s.params) ∧
  s.eds.debounce.toNat < 2 ^ s.params.ww ∧
  s.eds.debt0.toNat < 2 ^ s.params.tw ∧
  s.eds.anchor.toNat < 2 ^ s.params.tw ∧
  s.eds.rept0.toNat < 2 ^ s.params.tw ∧
  s.qed.lasttick.toNat < 2 ^ s.params.tw ∧
  s.qed.swt0.toNat < 2 ^ s.params.tw ∧
  s.qed.patt0.toNat < 2 ^ s.params.tw ∧
  (∀ x ∈ s.qed.encs, x.InRange s.params)

/-- What the timer of a filter says of its candidate: a running holder times a value that differs from the output; a
delayer whose timer is not running has the output as its last sample (R123, R124, R113). -/
abbrev Filter.Coherent (x : Filter) : Prop :=
  (x.policy = .holder → x.run = true → x.cand ≠ x.out) ∧
  (x.policy = .delayer → x.run = false → x.cand = x.out)

/-- Every filter is coherent. -/
abbrev State.FiltersCoherent (s : State) : Prop := ∀ x ∈ s.dbf, x.Coherent

/-- The binding table: NBIND is at most NSLOT, CURSOR is below max(NBIND, 1), the slots in use that are no bypass slots
name an existing pin, and the slots not in use hold their reset value (R40, R41, R154). -/
abbrev State.BindingOk (s : State) : Prop :=
  s.eds.nbind.toNat ≤ s.params.nslot ∧
  s.eds.cursor.toNat < max s.eds.nbind.toNat 1 ∧
  (∀ j < s.params.nslot, j < s.eds.nbind.toNat → (s.eds.slot j).byp = false →
    (s.eds.slot j).pin.toNat < s.params.npin) ∧
  (∀ j < s.params.nslot, s.eds.nbind.toNat ≤ j → s.eds.slot j = Slot.reset)

/-- The lines of the EDS: a line whose long-press has fired is active (R39, R147), and while the debounce timer runs its
candidate differs from the committed vector (R34, R145). -/
abbrev State.LinesOk (s : State) : Prop :=
  (∀ b < s.params.nb, s.eds.lpdone.getD b 0#8 &&& s.eds.cur.getD b 0#8 = 0#8) ∧
  (s.eds.debrun = true → s.eds.pend ≠ s.eds.cur)

/-- A mask has no bit at or above NE. -/
abbrev WithinEmask (p : Params) (m : Byte) : Prop := m &&& p.emask = m

/-- Every mask over the encoders has its bits at or above NE at 0 (R43 to R45, R48, R51, R52, R54 to R56, R58). -/
abbrev State.MasksOk (s : State) : Prop :=
  WithinEmask s.params s.qed.inv ∧ WithinEmask s.params s.qed.half ∧ WithinEmask s.params s.qed.modewrap ∧
  WithinEmask s.params s.qed.prev.a ∧ WithinEmask s.params s.qed.prev.b ∧ WithinEmask s.params s.qed.prev.s ∧
  WithinEmask s.params s.qed.chgup ∧ WithinEmask s.params s.qed.chgdn ∧
  WithinEmask s.params s.qed.chgqup ∧ WithinEmask s.params s.qed.chgqdn ∧
  WithinEmask s.params s.qed.cntchg ∧ WithinEmask s.params s.qed.modechg ∧
  WithinEmask s.params s.qed.swcur ∧ WithinEmask s.params s.qed.swpend ∧ WithinEmask s.params s.qed.lplatch

/-- The switches and the sticky masks: only held switches are latched (R58, R189, R190), a running switch timer times a
pattern that differs from the debounced one (R187), and a quick flag comes with its plain flag (R183, R184). -/
abbrev State.SwitchesOk (s : State) : Prop :=
  s.qed.lplatch &&& s.qed.swcur = s.qed.lplatch ∧
  (s.qed.swrun = true → s.qed.swpend ≠ s.qed.swcur) ∧
  s.qed.chgqup &&& s.qed.chgup = s.qed.chgqup ∧
  s.qed.chgqdn &&& s.qed.chgdn = s.qed.chgqdn

/-- The mode of an encoder is legal for its mode byte: in 1..n if it cycles, 0 or 1 if it is momentary, 0 if it is unused
(R53, R192). -/
abbrev Encoder.ModeLegal (x : Encoder) : Prop :=
  (2 ≤ x.nmodes.toNat % 128 → 1 ≤ x.mode.toNat ∧ x.mode.toNat ≤ x.nmodes.toNat % 128) ∧
  (x.nmodes.toNat = 1 → x.mode.toNat ≤ 1) ∧
  (x.nmodes.toNat = 0 ∨ x.nmodes.toNat = 128 ∨ x.nmodes.toNat = 129 → x.mode = 0#8)

/-- Every mode is legal. -/
abbrev State.ModesLegal (s : State) : Prop := ∀ x ∈ s.qed.encs, x.ModeLegal

/-- Everything 10_state.md says of the registers of one state, together. -/
abbrev State.Good (s : State) : Prop :=
  s.Sized ∧ s.InRange ∧ s.FiltersCoherent ∧ s.BindingOk ∧ s.LinesOk ∧ s.MasksOk ∧ s.SwitchesOk ∧ s.ModesLegal

end Sys2Proof.Machine
end

