-- ==== Sys2Proof/Certificates/Slice0/Obligations.lean ====
section
/-! DEFINITION. The statements for the provers. A statement about an operation names the encoding of the operation, the
response and every register it may change; `State.answered` adds the response and keeps everything else, so an equation
between states says the whole frame. The fields `params`, `pending`, `ports` and `responses` of a state are the model's own
record of the parameters and of the command port, not registers of the block (assumption log entries 1, 3, 5, 6). Operands are the model's own readings of the ports (`nowOf`, `scalarOf`,
`rawBanksOf`, `planesOf`), which the statements OperandsAreCutToTheirWidths and VectorsAreUnpackedByBankAndPlane tie to
the ports bit by bit. -/

open Sys2Proof Sys2Proof.Machine

/-! ## Encoding -/

/-- R93: decoding the word of a well-formed operation gives the operation back, with every index. -/
def Obligations.DecodeOfEncodeIsTheOperation : Prop :=
  ∀ i : Instr, i.wellFormed = true → decode (encode i) = .ok i

/-- R95: all 256 values of `k` encode the same operation, the encoder emits `k = 0`, and no other bit of a word is lost: a
word that decodes is, but for an index field that the operation ignores, the word of its operation. -/
def Obligations.IgnoredIndexFieldHas256Encodings : Prop :=
  (∀ k : Byte,
    decode (0x00#8 ++ k) = .ok .nop ∧ decode (0x03#8 ++ k) = .ok .rst ∧
    decode (0x20#8 ++ k) = .ok .edsInit ∧ decode (0x21#8 ++ k) = .ok .edsPoll ∧ decode (0x23#8 ++ k) = .ok .edsNext ∧
    decode (0x30#8 ++ k) = .ok .qedInit ∧ decode (0x31#8 ++ k) = .ok .qedUpd ∧ decode (0x35#8 ++ k) = .ok .qedRdtrn) ∧
  (encode .nop = 0x0000#16 ∧ encode .rst = 0x0300#16 ∧ encode .edsInit = 0x2000#16 ∧ encode .edsPoll = 0x2100#16 ∧
    encode .edsNext = 0x2300#16 ∧ encode .qedInit = 0x3000#16 ∧ encode .qedUpd = 0x3100#16 ∧
    encode .qedRdtrn = 0x3500#16) ∧
  ∀ (w : CommandWord) (i : Instr), decode w = .ok i →
    encode i = w ∨
      ((i = .nop ∨ i = .rst ∨ i = .edsInit ∨ i = .edsPoll ∨ i = .edsNext ∨ i = .qedInit ∨ i = .qedUpd ∨ i = .qedRdtrn) ∧
        encode i = opField w ++ 0#8)

/-- Words the spec's rules and vectors print, and the operations they are; and the words the decoder rejects, each under
its opcode, are those of the four reserved ranges of R94 (that the decoder rejects them by name is the model's choice,
assumption log entry 8; what a step does with them is ReservedOpcodesChangeNothing). -/
def Obligations.PrintedAndReservedWordsDecode : Prop :=
  decode 0x0190#16 = .ok (.rd 0x90#8) ∧ decode 0x0281#16 = .ok (.wr 0x81#8) ∧ decode 0x00AB#16 = .ok .nop ∧
  decode 0x1100#16 = .ok (.dbfUpd 0x00#8) ∧ decode 0x22C8#16 = .ok (.edsBind 200#8) ∧
  decode 0x3407#16 = .ok (.qedRdmode 7#8) ∧ decode 0x3600#16 = .error (.reserved 0x36#8) ∧
  ∀ w : CommandWord,
    ((0x04 ≤ (opField w).toNat ∧ (opField w).toNat ≤ 0x0F) ∨ (0x13 ≤ (opField w).toNat ∧ (opField w).toNat ≤ 0x1F) ∨
      (0x24 ≤ (opField w).toNat ∧ (opField w).toNat ≤ 0x2F) ∨ 0x36 ≤ (opField w).toNat) ↔
    decode w = .error (.reserved (opField w))

/-- R97: the scaled bytes of the pseudo-instructions, with the rule's examples; within the range of a byte the result is
the nearest multiple, ties upward; and `SET.REPDLY`, `SET.REPINT`, `SET.LPDLY` write that byte. -/
def Obligations.PseudoInstructionsScaleMilliseconds : Prop :=
  (∀ ms : Nat, q100 ms = (if ms = 0 then 0 else min 255 (max 1 ((ms + 50) / 100))) ∧
    q10 ms = (if ms = 0 then 0 else min 255 (max 1 ((ms + 5) / 10)))) ∧
  (q100 300 = 3 ∧ q100 349 = 3 ∧ q100 350 = 4 ∧ q100 40 = 1 ∧ q100 30000 = 255 ∧ q10 100 = 10 ∧ q10 4 = 1 ∧
    q10 2550 = 255 ∧ q10 2600 = 255) ∧
  (∀ ms : Nat, 50 ≤ ms → ms < 25550 → 100 * q100 ms ≤ ms + 50 ∧ ms < 100 * q100 ms + 50) ∧
  (∀ ms : Nat, 5 ≤ ms → ms < 2555 → 10 * q10 ms ≤ ms + 5 ∧ ms < 10 * q10 ms + 5) ∧
  ∀ ms : Nat,
    setLine "SET.REPDLY" ms = some (.command 0x0281#16 ⟨BitVec.ofNat 32 (q100 ms), 0#64, 0#128, 0#32⟩) ∧
    setLine "SET.REPINT" ms = some (.command 0x0282#16 ⟨BitVec.ofNat 32 (q10 ms), 0#64, 0#128, 0#32⟩) ∧
    setLine "SET.LPDLY" ms = some (.command 0x0283#16 ⟨BitVec.ofNat 32 (q100 ms), 0#64, 0#128, 0#32⟩)

/-! ## The command port -/

/-- R115: the reserved opcodes, in the four ranges R94 lists, change no register and give the zero response, whatever the
index field and the ports hold. -/
def Obligations.ReservedOpcodesChangeNothing : Prop :=
  ∀ (s : State) (w : CommandWord) (ports : Ports) (rest : List HostEvent),
    s.pending = .command w ports :: rest →
    ((0x04 ≤ (opField w).toNat ∧ (opField w).toNat ≤ 0x0F) ∨ (0x13 ≤ (opField w).toNat ∧ (opField w).toNat ≤ 0x1F) ∨
      (0x24 ≤ (opField w).toNat ∧ (opField w).toNat ≤ 0x2F) ∨ 0x36 ≤ (opField w).toNat) →
    step s = .next (({ s with pending := rest, ports := ports } : State).answered 0#32 false)

/-- A step takes the next command, samples its ports, and performs the operation its word decodes to. -/
def Obligations.StepPerformsTheDecodedOperation : Prop :=
  ∀ (s : State) (w : CommandWord) (ports : Ports) (rest : List HostEvent) (i : Instr),
    s.pending = .command w ports :: rest → decode w = .ok i → i.wellFormed = true →
    step s = exec i { s with pending := rest, ports := ports }

/-- R230: for every state, every 16-bit command word and every value of the operand ports there is a next state and one
response; the parameters stay, and the rest of the host's events stays pending. -/
def Obligations.EveryCommandCompletesWithOneResponse : Prop :=
  ∀ (s : State) (w : CommandWord) (ports : Ports) (rest : List HostEvent), s.pending = .command w ports :: rest →
    ∃ (t : State) (r : Response), step s = .next t ∧ t.responses = s.responses ++ [r] ∧ t.params = s.params ∧
      t.pending = rest ∧ t.ports = ports

/-- R269, R80: a run over any finite list of host events completes, in as many steps as there are events, with one
response per command after the responses that were there. The model's choice, and not a rule's: a hardware reset is an
event that takes a step and gives no response (assumption log entry 7), and events and responses are lists in the state
(entries 3, 6). -/
def Obligations.RunOverAnyEventListCompletes : Prop :=
  ∀ s : State, ∃ t, Sys2Proof.core.run s.pending.length s = .next t ∧ t.pending = [] ∧ t.params = s.params ∧
    s.responses <+: t.responses ∧
    t.responses.length = s.responses.length + (s.pending.filter (fun e => e != HostEvent.hardReset)).length

/-- R250: the hardware reset input puts every register at its reset value, whatever the state, and `RST` does the same to
the registers. The model's choice, and not R250's: the hardware reset is taken between operations and gives no response,
and the records `ports` and `responses` stay (assumption log entries 5, 6, 7). -/
def Obligations.HardwareResetResetsEveryRegister : Prop :=
  ∀ s : State,
    (∀ rest : List HostEvent, s.pending = .hardReset :: rest →
      step s = .next { State.resetWith s.params with pending := rest, ports := s.ports, responses := s.responses }) ∧
    ∃ t : State, exec .rst s = .next t ∧ t.dbf = (State.resetWith s.params).dbf ∧ t.eds = (State.resetWith s.params).eds ∧
      t.qed = (State.resetWith s.params).qed

/-- R63: the values of every register, register by register, in the reset state of every choice of the parameters, after
the hardware reset and after `RST`. -/
def Obligations.ResetValuesOfEveryRegister : Prop :=
  ∀ (p : Params) (t : State),
    (t = State.resetWith p ∨ ∃ s : State, s.params = p ∧
      (exec .rst s = .next t ∨ ∃ rest, s.pending = .hardReset :: rest ∧ step s = .next t)) →
    (∀ f < p.nf, t.dbf[f]? = some ⟨.holder, 0#16, 0#32, 0#32, 0#64, false⟩) ∧
    (t.eds.debounce = 0#16 ∧ t.eds.repdly = 0#8 ∧ t.eds.repint = 0#8 ∧ t.eds.lpdly = 0#8) ∧
    (∀ b < p.nb, t.eds.cur[b]? = some 0xFF#8 ∧ t.eds.pend[b]? = some 0xFF#8 ∧ t.eds.lpdone[b]? = some 0#8) ∧
    (t.eds.debt0 = 0#64 ∧ t.eds.debrun = false ∧ t.eds.anchor = 0#64 ∧ t.eds.repph = false ∧ t.eds.rept0 = 0#64 ∧
      t.eds.lparm = false) ∧
    (t.eds.nbind = 0#8 ∧ t.eds.cursor = 0#8) ∧
    (∀ j < p.nslot, t.eds.slots[j]? = some ⟨false, 0#8⟩) ∧
    (t.qed.inv = 0#8 ∧ t.qed.half = 0#8 ∧ t.qed.modewrap = 0#8) ∧
    (∀ e < p.ne, t.qed.encs[e]? = some ⟨0#8, 0#32, 0#64, false, 0#8⟩) ∧
    (t.qed.lasttick = 0#64 ∧ t.qed.prev = ⟨0#8, 0#8, 0#8⟩) ∧
    (t.qed.chgup = 0#8 ∧ t.qed.chgdn = 0#8 ∧ t.qed.chgqup = 0#8 ∧ t.qed.chgqdn = 0#8 ∧ t.qed.cntchg = 0#8 ∧
      t.qed.modechg = 0#8) ∧
    (t.qed.swcur = 0#8 ∧ t.qed.swpend = 0#8 ∧ t.qed.swt0 = 0#64 ∧ t.qed.swrun = false ∧ t.qed.patt0 = 0#64 ∧
      t.qed.qlparm = false ∧ t.qed.lplatch = 0#8)

/-! ## Operands -/

/-- R96, R9, R10: `now`, the scalar and the bypass bit are cut from their ports, and elapsed time is the difference modulo
2^TW, so that an interval shorter than 2^TW is measured exactly across a wrap of the counter. -/
def Obligations.OperandsAreCutToTheirWidths : Prop :=
  ∀ s : State, s.params.Legal →
    (nowOf s).toNat = s.ports.now.toNat % 2 ^ s.params.tw ∧
    (scalarOf s).toNat = s.ports.wdata.toNat % 2 ^ s.params.vw ∧
    bypassOf s = s.ports.wdata.getLsbD 0 ∧
    (∀ now t : Time, now.toNat < 2 ^ s.params.tw → t.toNat < 2 ^ s.params.tw →
      elapsed s.params now t = (now.toNat + 2 ^ s.params.tw - t.toNat) % 2 ^ s.params.tw) ∧
    (∀ (t : Time) (d : Nat), d < 2 ^ s.params.tw → elapsed s.params (t + BitVec.ofNat 64 d) t = d)

/-- R74, R75: bit `p` of bank `b` is bit `8b+p` of `raw_btn`; bit `e` of the planes `A`, `B`, `S` is bit `e`, `8+e`,
`16+e` of `raw_enc`, and 0 for an encoder that does not exist. -/
def Obligations.VectorsAreUnpackedByBankAndPlane : Prop :=
  ∀ s : State, s.params.Legal →
    (rawBanksOf s).length = s.params.nb ∧
    (∀ b < s.params.nb, ∀ p < 8, ((rawBanksOf s).getD b 0#8).getLsbD p = s.ports.rawBtn.getLsbD (8 * b + p)) ∧
    (∀ e, (planesOf s).a.getLsbD e = (decide (e < s.params.ne) && s.ports.rawEnc.getLsbD e)) ∧
    (∀ e, (planesOf s).b.getLsbD e = (decide (e < s.params.ne) && s.ports.rawEnc.getLsbD (8 + e))) ∧
    (∀ e, (planesOf s).s.getLsbD e = (decide (e < s.params.ne) && s.ports.rawEnc.getLsbD (16 + e)))

/-! ## Common operations -/

/-- R110: `NOP` changes no register, whatever `k` and the ports hold. -/
def Obligations.NopChangesNoRegister : Prop :=
  (∀ k : Byte, decode (0x00#8 ++ k) = .ok .nop) ∧ ∀ s : State, exec .nop s = .next (s.answered 0#32 false)

/-- R114: `RST` puts every register, the configuration and the binding table among them, at its reset value; the slot
count reads 0 afterwards; and no other operation lowers the slot count. -/
def Obligations.RstResetsEveryRegister : Prop :=
  (∀ k : Byte, decode (0x03#8 ++ k) = .ok .rst) ∧
  (∀ s : State, exec .rst s = .next (({ State.resetWith s.params with
    ports := s.ports, pending := s.pending, responses := s.responses } : State).answered 0#32 false)) ∧
  (∀ s t : State, exec .rst s = .next t → exec (.rd 0x84#8) t = .next (t.answered 0#32 false)) ∧
  ∀ (i : Instr) (s t : State), i ≠ .rst → s.Sized → s.BindingOk → exec i s = .next t →
    s.eds.nbind.toNat ≤ t.eds.nbind.toNat

/-- R71, R72, R111: `RD k` gives the register that `k` numbers, zero-extended, gives 0 for every reserved number, and
changes no register. -/
def Obligations.RdReturnsTheNumberedRegister : Prop :=
  (∀ k : Byte, decode (0x01#8 ++ k) = .ok (.rd k)) ∧
  ∀ (s : State) (k : Byte), s.params.Legal → ∃ v : Word, exec (.rd k) s = .next (s.answered v false) ∧
    (∀ f < s.params.nf,
      (k.toNat = 0x40 + 4 * f → v.toNat = match (s.filter f).policy with
        | .holder => 0
        | .delayer => 1
        | .blanker => 2) ∧
      (k.toNat = 0x41 + 4 * f → v = (s.filter f).window.setWidth 32) ∧
      (k.toNat = 0x42 + 4 * f → v = (s.filter f).out)) ∧
    (k.toNat = 0x80 → v = s.eds.debounce.setWidth 32) ∧
    (k.toNat = 0x81 → v = s.eds.repdly.setWidth 32) ∧
    (k.toNat = 0x82 → v = s.eds.repint.setWidth 32) ∧
    (k.toNat = 0x83 → v = s.eds.lpdly.setWidth 32) ∧
    (k.toNat = 0x84 → v = s.eds.nbind.setWidth 32) ∧
    (∀ b < s.params.nb, k.toNat = 0x90 + b → v = (s.eds.cur.getD b 0#8).setWidth 32) ∧
    (k.toNat = 0xC0 → v = s.qed.inv.setWidth 32) ∧
    (k.toNat = 0xC1 → v = s.qed.half.setWidth 32) ∧
    (k.toNat = 0xC2 → v = s.qed.modewrap.setWidth 32) ∧
    (k.toNat = 0xC3 → v = s.qed.swcur.setWidth 32) ∧
    (k.toNat = 0xC4 → v = s.qed.lplatch.setWidth 32) ∧
    (∀ e < s.params.ne, k.toNat = 0xC8 + e → v = (s.qed.enc e).nmodes.setWidth 32) ∧
    ((k.toNat < 0x40 ∨ (∃ f < 16, k.toNat = 0x43 + 4 * f) ∨ (0x40 + 4 * s.params.nf ≤ k.toNat ∧ k.toNat < 0x80) ∨
      (0x85 ≤ k.toNat ∧ k.toNat ≤ 0x8F) ∨ (0x90 + s.params.nb ≤ k.toNat ∧ k.toNat ≤ 0xBF) ∨
      (0xC5 ≤ k.toNat ∧ k.toNat ≤ 0xC7) ∨ 0xC8 + s.params.ne ≤ k.toNat) → v = 0#32)

/-- R113, row by row, for every value of `wdata`, and R112: the response is zero and nothing else changes.
`POLICY[f]`: a legal code selects the policy, stops the timer and takes the output as candidate, even if the code is the
old one; a value above 2 is ignored. `WINDOW[f]`, `DEBOUNCE`, `REPDLY`, `REPINT`, `LPDLY`: the value is clamped to the
register's width. `INV`, `HALF`, `MODEWRAP`: the mask keeps `wdata[7:0]` within EMASK. `NMODES[e]`: the mode byte keeps
`wdata[7:0]`, the mode becomes 1 if the encoder cycles and 0 otherwise, and the encoder's `MODECHG` bit is cleared. -/
def Obligations.WrWritesTheNumberedRegister : Prop :=
  ∀ (s : State) (k : Byte), s.params.Legal →
    (∀ f < s.params.nf, k.toNat = 0x40 + 4 * f →
      (s.ports.wdata.toNat ≤ 2 → ∃ (c : Policy) (x : Filter),
        (c = .holder ↔ s.ports.wdata.toNat = 0) ∧ (c = .delayer ↔ s.ports.wdata.toNat = 1) ∧
        (c = .blanker ↔ s.ports.wdata.toNat = 2) ∧
        x = { s.filter f with policy := c, run := false, cand := (s.filter f).out } ∧
        exec (.wr k) s = .next (({ s with dbf := s.dbf.set f x } : State).answered 0#32 false)) ∧
      (2 < s.ports.wdata.toNat → exec (.wr k) s = .next (s.answered 0#32 false))) ∧
    (∀ f < s.params.nf, k.toNat = 0x41 + 4 * f → ∃ (v : Window) (x : Filter),
      v.toNat = min s.ports.wdata.toNat (2 ^ s.params.ww - 1) ∧ x = { s.filter f with window := v } ∧
      exec (.wr k) s = .next (({ s with dbf := s.dbf.set f x } : State).answered 0#32 false)) ∧
    (k.toNat = 0x80 → ∃ v : Window, v.toNat = min s.ports.wdata.toNat (2 ^ s.params.ww - 1) ∧
      exec (.wr k) s = .next (({ s with eds := { s.eds with debounce := v } } : State).answered 0#32 false)) ∧
    (k.toNat = 0x81 → ∃ v : Byte, v.toNat = min s.ports.wdata.toNat 255 ∧
      exec (.wr k) s = .next (({ s with eds := { s.eds with repdly := v } } : State).answered 0#32 false)) ∧
    (k.toNat = 0x82 → ∃ v : Byte, v.toNat = min s.ports.wdata.toNat 255 ∧
      exec (.wr k) s = .next (({ s with eds := { s.eds with repint := v } } : State).answered 0#32 false)) ∧
    (k.toNat = 0x83 → ∃ v : Byte, v.toNat = min s.ports.wdata.toNat 255 ∧
      exec (.wr k) s = .next (({ s with eds := { s.eds with lpdly := v } } : State).answered 0#32 false)) ∧
    (k.toNat = 0xC0 → ∃ v : Byte, v = s.ports.wdata.setWidth 8 &&& s.params.emask ∧
      exec (.wr k) s = .next (({ s with qed := { s.qed with inv := v } } : State).answered 0#32 false)) ∧
    (k.toNat = 0xC1 → ∃ v : Byte, v = s.ports.wdata.setWidth 8 &&& s.params.emask ∧
      exec (.wr k) s = .next (({ s with qed := { s.qed with half := v } } : State).answered 0#32 false)) ∧
    (k.toNat = 0xC2 → ∃ v : Byte, v = s.ports.wdata.setWidth 8 &&& s.params.emask ∧
      exec (.wr k) s = .next (({ s with qed := { s.qed with modewrap := v } } : State).answered 0#32 false)) ∧
    (∀ e < s.params.ne, k.toNat = 0xC8 + e → ∃ (m mode chg : Byte) (x : Encoder),
      m.toNat = s.ports.wdata.toNat % 256 ∧
      mode.toNat = (if 2 ≤ s.ports.wdata.toNat % 128 then 1 else 0) ∧
      (∀ i, chg.getLsbD i = (s.qed.modechg.getLsbD i && decide (i ≠ e))) ∧
      x = { s.qed.enc e with nmodes := m, mode := mode } ∧
      exec (.wr k) s =
        .next (({ s with qed := { s.qed with encs := s.qed.encs.set e x, modechg := chg } } : State).answered 0#32 false))

/-- R73: a write to a read-only or a reserved number leaves no trace. -/
def Obligations.WrToReadOnlyOrReservedIsIgnored : Prop :=
  (∀ k : Byte, decode (0x02#8 ++ k) = .ok (.wr k)) ∧
  ∀ (s : State) (k : Byte), s.params.Legal →
    ((∃ f < s.params.nf, k.toNat = 0x42 + 4 * f) ∨ k.toNat = 0x84 ∨ (∃ b < s.params.nb, k.toNat = 0x90 + b) ∨
      k.toNat = 0xC3 ∨ k.toNat = 0xC4 ∨
      k.toNat < 0x40 ∨ (∃ f < 16, k.toNat = 0x43 + 4 * f) ∨ (0x40 + 4 * s.params.nf ≤ k.toNat ∧ k.toNat < 0x80) ∨
      (0x85 ≤ k.toNat ∧ k.toNat ≤ 0x8F) ∨ (0x90 + s.params.nb ≤ k.toNat ∧ k.toNat ≤ 0xBF) ∨
      (0xC5 ≤ k.toNat ∧ k.toNat ≤ 0xC7) ∨ 0xC8 + s.params.ne ≤ k.toNat) →
    exec (.wr k) s = .next (s.answered 0#32 false)

/-! ## Debounce filter -/

/-- R121: `DBF.INIT f` loads the output and the candidate with the scalar and stops the timer; policy, window and start
time stay. -/
def Obligations.DbfInitLoadsTheFilter : Prop :=
  (∀ k : Byte, decode (0x10#8 ++ k) = .ok (.dbfInit k)) ∧
  ∀ (s : State) (f : Byte),
    (f.toNat < s.params.nf → ∃ x : Filter,
      x = { s.filter f.toNat with out := scalarOf s, cand := scalarOf s, run := false } ∧
      exec (.dbfInit f) s = .next (({ s with dbf := s.dbf.set f.toNat x } : State).answered (scalarOf s) false)) ∧
    (s.params.nf ≤ f.toNat → exec (.dbfInit f) s = .next (s.answered 0#32 false))

/-- R126, R131: `DBF.STAT f` gives the output and changes no register; an `f` that selects no instance makes each of the
three operations change nothing and give 0. -/
def Obligations.DbfStatAndUnselectedInstances : Prop :=
  (∀ k : Byte, decode (0x12#8 ++ k) = .ok (.dbfStat k)) ∧
  ∀ (s : State) (f : Byte),
    (f.toNat < s.params.nf → exec (.dbfStat f) s = .next (s.answered (s.filter f.toNat).out false)) ∧
    (s.params.nf ≤ f.toNat →
      exec (.dbfStat f) s = .next (s.answered 0#32 false) ∧
      exec (.dbfInit f) s = .next (s.answered 0#32 false) ∧
      exec (.dbfUpd f) s = .next (s.answered 0#32 false))

/-- R123: the holder step, case by case. -/
def Obligations.HolderStepByCases : Prop :=
  ∀ (s : State) (f : Byte), f.toNat < s.params.nf → (s.filter f.toNat).policy = .holder →
    ∃ x : Filter,
      exec (.dbfUpd f) s = .next (({ s with dbf := s.dbf.set f.toNat x } : State).answered x.out false) ∧
      (scalarOf s = (s.filter f.toNat).out → x = { s.filter f.toNat with run := false }) ∧
      (scalarOf s ≠ (s.filter f.toNat).out →
        ((s.filter f.toNat).run = false ∨ scalarOf s ≠ (s.filter f.toNat).cand) →
        ((s.filter f.toNat).window ≠ 0#16 →
          x = { s.filter f.toNat with cand := scalarOf s, t0 := nowOf s, run := true }) ∧
        ((s.filter f.toNat).window = 0#16 →
          x = { s.filter f.toNat with out := scalarOf s, cand := scalarOf s, t0 := nowOf s, run := false })) ∧
      (scalarOf s ≠ (s.filter f.toNat).out →
        (s.filter f.toNat).run = true → scalarOf s = (s.filter f.toNat).cand →
        (elapsed s.params (nowOf s) (s.filter f.toNat).t0 < (s.filter f.toNat).window.toNat → x = s.filter f.toNat) ∧
        ((s.filter f.toNat).window.toNat ≤ elapsed s.params (nowOf s) (s.filter f.toNat).t0 →
          x = { s.filter f.toNat with out := (s.filter f.toNat).cand, run := false }))

/-- R124: the delayer step, case by case. -/
def Obligations.DelayerStepByCases : Prop :=
  ∀ (s : State) (f : Byte), f.toNat < s.params.nf → (s.filter f.toNat).policy = .delayer →
    ∃ x : Filter,
      exec (.dbfUpd f) s = .next (({ s with dbf := s.dbf.set f.toNat x } : State).answered x.out false) ∧
      (scalarOf s ≠ (s.filter f.toNat).cand →
        ((s.filter f.toNat).window ≠ 0#16 →
          x = { s.filter f.toNat with cand := scalarOf s, t0 := nowOf s, run := true }) ∧
        ((s.filter f.toNat).window = 0#16 →
          x = { s.filter f.toNat with out := scalarOf s, cand := scalarOf s, t0 := nowOf s, run := false })) ∧
      (scalarOf s = (s.filter f.toNat).cand →
        ((s.filter f.toNat).run = false → x = s.filter f.toNat) ∧
        ((s.filter f.toNat).run = true →
          (elapsed s.params (nowOf s) (s.filter f.toNat).t0 < (s.filter f.toNat).window.toNat → x = s.filter f.toNat) ∧
          ((s.filter f.toNat).window.toNat ≤ elapsed s.params (nowOf s) (s.filter f.toNat).t0 →
            x = { s.filter f.toNat with out := (s.filter f.toNat).cand, run := false })))

/-- R125: the blanker step, case by case. A running interval hides the input; the update that ends it, and every update
without one, takes a value that differs from the output at once and starts an interval. -/
def Obligations.BlankerStepByCases : Prop :=
  ∀ (s : State) (f : Byte), f.toNat < s.params.nf → (s.filter f.toNat).policy = .blanker →
    ∃ x : Filter,
      exec (.dbfUpd f) s = .next (({ s with dbf := s.dbf.set f.toNat x } : State).answered x.out false) ∧
      ((s.filter f.toNat).run = true →
        elapsed s.params (nowOf s) (s.filter f.toNat).t0 < (s.filter f.toNat).window.toNat → x = s.filter f.toNat) ∧
      (((s.filter f.toNat).run = false ∨
          (s.filter f.toNat).window.toNat ≤ elapsed s.params (nowOf s) (s.filter f.toNat).t0) →
        (scalarOf s = (s.filter f.toNat).out → x = { s.filter f.toNat with run := false }) ∧
        (scalarOf s ≠ (s.filter f.toNat).out →
          x = { s.filter f.toNat with out := scalarOf s, t0 := nowOf s, run := true }))

/-- R128: with a zero window every policy passes the input through. The premise on the filter is the invariant
EveryStepKeepsFiltersCoherent. -/
def Obligations.ZeroWindowPassesTheInputThrough : Prop :=
  ∀ (s : State) (f : Byte), f.toNat < s.params.nf → (s.filter f.toNat).Coherent → (s.filter f.toNat).window = 0#16 →
    ∃ t, exec (.dbfUpd f) s = .next t ∧ t.responses = s.responses ++ [⟨scalarOf s, false, .none⟩]

/-- R127: from the same start (output equal to candidate, timer stopped) a holder and a delayer give the same responses to
the same updates, whatever the window, the inputs and the times. -/
def Obligations.HolderAndDelayerGiveTheSameOutputs : Prop :=
  ∀ (s : State) (f : Byte) (inputs : List Ports), s.Sized → f.toNat < s.params.nf →
    (s.filter f.toNat).run = false → (s.filter f.toNat).cand = (s.filter f.toNat).out →
    ∃ a b : State,
      Sys2Proof.core.run inputs.length { s with
        pending := inputs.map fun p => .command (0x11#8 ++ f) p
        dbf := s.dbf.set f.toNat { s.filter f.toNat with policy := .holder } } = .next a ∧
      Sys2Proof.core.run inputs.length { s with
        pending := inputs.map fun p => .command (0x11#8 ++ f) p
        dbf := s.dbf.set f.toNat { s.filter f.toNat with policy := .delayer } } = .next b ∧
      a.responses = b.responses

/-- R130: under every policy, while the input stays at one value the output makes at most one transition, and that to the
input's value: of the outputs that a run of updates with one input gives, a first part is the old output and the rest is
the input. -/
def Obligations.ConstantInputMovesTheOutputAtMostOnce : Prop :=
  ∀ (s : State) (f : Byte) (inputs : List Ports) (v : Word), s.Sized → f.toNat < s.params.nf →
    (∀ p ∈ inputs, keepLow s.params.vw p.wdata = v) →
    ∃ (a : State) (m n : Nat),
      Sys2Proof.core.run inputs.length { s with
        pending := inputs.map fun p => .command (0x11#8 ++ f) p } = .next a ∧
      a.responses = s.responses ++ List.replicate m ⟨(s.filter f.toNat).out, false, .none⟩ ++
        List.replicate n ⟨v, false, .none⟩

/-! ## Edge detector and status distributor -/

/-- R143: `EDS.INIT` takes the vector as committed, starts the timers as a commit does, and delivers to every bound slot a
code that holds `Current` only. -/
def Obligations.EdsInitTakesTheVectorAsCommitted : Prop :=
  (∀ k : Byte, decode (0x20#8 ++ k) = .ok .edsInit) ∧
  ∀ s : State, ∃ ds : List Delivery,
    exec .edsInit s = .next (({ s with eds := { s.eds with
        cur := rawBanksOf s, pend := rawBanksOf s, lpdone := List.replicate s.params.nb 0#8, debrun := false,
        anchor := nowOf s, repph := false, rept0 := nowOf s, lparm := true } } : State).answered 0#32 false
      (.bank ⟨.init, rawBanksOf s, List.replicate s.params.nb 0#8, List.replicate s.params.nb 0#8,
        List.replicate s.params.nb 0#8, List.replicate s.params.nb 0#8, ds⟩)) ∧
    ds.length = s.eds.nbind.toNat ∧
    ∀ j < s.eds.nbind.toNat, ∃ st : StatusCode, ds[j]? = some ⟨j, .init, (s.eds.slot j).byp, st⟩ ∧
      ((s.eds.slot j).byp = true → st = 0#5) ∧
      ((s.eds.slot j).byp = false → (s.eds.slot j).pin.toNat < s.params.npin →
        st = (if s.ports.rawBtn.getLsbD (s.eds.slot j).pin.toNat then 1#5 else 0#5))

/-- R145, R146: the compare, the debounce timer and the commit test of `EDS.POLL`, and what a poll leaves alone. -/
def Obligations.PollDebouncesTheWholeVector : Prop :=
  (∀ k : Byte, decode (0x21#8 ++ k) = .ok .edsPoll) ∧
  ∀ s : State, ∃ t : State, exec .edsPoll s = .next t ∧
    (t.params = s.params ∧ t.dbf = s.dbf ∧ t.qed = s.qed ∧ t.ports = s.ports ∧ t.pending = s.pending) ∧
    (t.eds.debounce = s.eds.debounce ∧ t.eds.repdly = s.eds.repdly ∧ t.eds.repint = s.eds.repint ∧
      t.eds.lpdly = s.eds.lpdly ∧ t.eds.nbind = s.eds.nbind ∧ t.eds.slots = s.eds.slots ∧
      t.eds.cursor = s.eds.cursor) ∧
    (rawBanksOf s = s.eds.cur →
      t.eds.debrun = false ∧ t.eds.cur = s.eds.cur ∧ t.eds.pend = s.eds.pend ∧ t.eds.debt0 = s.eds.debt0) ∧
    (rawBanksOf s ≠ s.eds.cur →
      t.eds.pend = rawBanksOf s ∧
      (s.eds.debrun = false ∨ rawBanksOf s ≠ s.eds.pend → t.eds.debt0 = nowOf s) ∧
      (s.eds.debrun = true → rawBanksOf s = s.eds.pend → t.eds.debt0 = s.eds.debt0) ∧
      (elapsed s.params (nowOf s) t.eds.debt0 < s.eds.debounce.toNat →
        t.eds.debrun = true ∧ t.eds.cur = s.eds.cur) ∧
      (s.eds.debounce.toNat ≤ elapsed s.params (nowOf s) t.eds.debt0 →
        t.eds.debrun = false ∧ t.eds.cur = rawBanksOf s))

/-- R147, R148: in a committing poll (the committed vector changes) the edges are `Up = (new ^ old) & new` and
`Down = (new ^ old) & ~new`, the long-press mask loses the lines that became inactive, and both timers are re-anchored;
in every other poll there is no edge, the anchor stays and no mask bit is lost. -/
def Obligations.PollEdgesAndTimersOfACommit : Prop :=
  ∀ s : State, s.Sized → ∃ (t : State) (ev : BankEvent),
    exec .edsPoll s = .next t ∧ t.responses = s.responses ++ [⟨0#32, false, .bank ev⟩] ∧
    ev.kind = .check ∧ ev.cur = t.eds.cur ∧
    (t.eds.cur ≠ s.eds.cur →
      t.eds.cur = rawBanksOf s ∧
      (∀ b < s.params.nb,
        ev.up[b]? = some ((t.eds.cur.getD b 0#8 ^^^ s.eds.cur.getD b 0#8) &&& t.eds.cur.getD b 0#8) ∧
        ev.dn[b]? = some ((t.eds.cur.getD b 0#8 ^^^ s.eds.cur.getD b 0#8) &&& ~~~ t.eds.cur.getD b 0#8) ∧
        t.eds.lpdone[b]? = some (s.eds.lpdone.getD b 0#8 &&& ~~~ ev.up.getD b 0#8)) ∧
      t.eds.debrun = false ∧ t.eds.anchor = nowOf s ∧ t.eds.repph = false ∧ t.eds.rept0 = s.eds.rept0 ∧
      t.eds.lparm = true) ∧
    (t.eds.cur = s.eds.cur →
      ev.up = List.replicate s.params.nb 0#8 ∧ ev.dn = List.replicate s.params.nb 0#8 ∧
      t.eds.anchor = s.eds.anchor ∧ ∀ b < s.params.nb, s.eds.lpdone.getD b 0#8 &&& ~~~ t.eds.lpdone.getD b 0#8 = 0#8)

/-- R149, R150: the repeat timer of `EDS.POLL` in a poll that commits nothing; in a committing poll it does not fire. -/
def Obligations.PollRepeatTimer : Prop :=
  ∀ s : State, s.Sized → ∃ (t : State) (ev : BankEvent),
    exec .edsPoll s = .next t ∧ t.responses = s.responses ++ [⟨0#32, false, .bank ev⟩] ∧
    ((s.eds.repdly = 0#8 ∨ s.eds.repint = 0#8) →
      ev.rpt = List.replicate s.params.nb 0#8 ∧ t.eds.rept0 = s.eds.rept0 ∧
      (t.eds.cur = s.eds.cur → t.eds.repph = s.eds.repph)) ∧
    (t.eds.cur ≠ s.eds.cur → ev.rpt = List.replicate s.params.nb 0#8) ∧
    (s.eds.repdly ≠ 0#8 → s.eds.repint ≠ 0#8 → t.eds.cur = s.eds.cur →
      ((if s.eds.repph then 10 * s.eds.repint.toNat ≤ elapsed s.params (nowOf s) s.eds.rept0
          else 100 * s.eds.repdly.toNat ≤ elapsed s.params (nowOf s) s.eds.anchor) →
        (∀ b < s.params.nb, ev.rpt[b]? = some (~~~ s.eds.cur.getD b 0#8)) ∧
        t.eds.repph = true ∧ t.eds.rept0 = nowOf s) ∧
      (¬ (if s.eds.repph then 10 * s.eds.repint.toNat ≤ elapsed s.params (nowOf s) s.eds.rept0
          else 100 * s.eds.repdly.toNat ≤ elapsed s.params (nowOf s) s.eds.anchor) →
        ev.rpt = List.replicate s.params.nb 0#8 ∧ t.eds.repph = s.eds.repph ∧ t.eds.rept0 = s.eds.rept0))

/-- R151, R152: the long-press timer of `EDS.POLL` in a poll that commits nothing; in a committing poll it does not
fire. -/
def Obligations.PollLongPressTimer : Prop :=
  ∀ s : State, s.Sized → ∃ (t : State) (ev : BankEvent),
    exec .edsPoll s = .next t ∧ t.responses = s.responses ++ [⟨0#32, false, .bank ev⟩] ∧
    (t.eds.cur ≠ s.eds.cur → ev.lng = List.replicate s.params.nb 0#8) ∧
    (t.eds.cur = s.eds.cur →
      (s.eds.lpdly ≠ 0#8 → s.eds.lparm = true → 100 * s.eds.lpdly.toNat ≤ elapsed s.params (nowOf s) s.eds.anchor →
        (∀ b < s.params.nb,
          ev.lng[b]? = some (~~~ s.eds.cur.getD b 0#8 &&& ~~~ s.eds.lpdone.getD b 0#8) ∧
          t.eds.lpdone[b]? = some (s.eds.lpdone.getD b 0#8 ||| ev.lng.getD b 0#8)) ∧
        t.eds.lparm = false) ∧
      ((s.eds.lpdly = 0#8 ∨ s.eds.lparm = false ∨
          elapsed s.params (nowOf s) s.eds.anchor < 100 * s.eds.lpdly.toNat) →
        ev.lng = List.replicate s.params.nb 0#8 ∧ t.eds.lpdone = s.eds.lpdone ∧ t.eds.lparm = s.eds.lparm))

/-- R153, and R154 for a poll: every bound slot gets one delivery, in ascending order; a bypass slot gets status 0, every other slot the
five flags of its pin as the event record holds them. -/
def Obligations.PollDeliversOneStatusPerBoundSlot : Prop :=
  ∀ s : State, ∃ (t : State) (ev : BankEvent),
    exec .edsPoll s = .next t ∧ t.responses = s.responses ++ [⟨0#32, false, .bank ev⟩] ∧
    ev.cur = t.eds.cur ∧ ev.deliveries.length = s.eds.nbind.toNat ∧
    ∀ j < s.eds.nbind.toNat, ∃ st : StatusCode, ev.deliveries[j]? = some ⟨j, .check, (s.eds.slot j).byp, st⟩ ∧
      ((s.eds.slot j).byp = true → st = 0#5) ∧
      ((s.eds.slot j).byp = false → ∀ b p : Nat, p < 8 → (s.eds.slot j).pin.toNat = 8 * b + p →
        st.getLsbD 0 = (ev.cur.getD b 0#8).getLsbD p ∧ st.getLsbD 1 = (ev.dn.getD b 0#8).getLsbD p ∧
        st.getLsbD 2 = (ev.up.getD b 0#8).getLsbD p ∧ st.getLsbD 3 = (ev.rpt.getD b 0#8).getLsbD p ∧
        st.getLsbD 4 = (ev.lng.getD b 0#8).getLsbD p)

/-- R158: the only status codes a poll delivers are 0x00, 0x01, 0x02, 0x05, 0x08, 0x10, 0x18, in every state; so `Down`
and `Up` are never both set, and `Repeat` and `Long` only with `Current = 0`. -/
def Obligations.OnlySevenStatusCodesOccur : Prop :=
  ∀ (s t : State) (ev : BankEvent), exec .edsPoll s = .next t →
    t.responses = s.responses ++ [⟨0#32, false, .bank ev⟩] →
    ∀ d ∈ ev.deliveries, d.st ∈ [0x00#5, 0x01#5, 0x02#5, 0x05#5, 0x08#5, 0x10#5, 0x18#5]

/-- R151, and R158(b) for the polls: in one poll a line gets `Long` only if it is active and its bit of the long-press mask
is clear, and the poll sets that bit; and a poll keeps the bit of every line that is active after it. So over polls alone
a line gets `Long` at most once while it stays active; `EDS.INIT` and the resets clear the mask (R143, R63), after which a
line that is still held can get it again. -/
def Obligations.LongIsMaskedByTheLongPressMask : Prop :=
  ∀ (s t : State) (ev : BankEvent), s.Sized → exec .edsPoll s = .next t →
    t.responses = s.responses ++ [⟨0#32, false, .bank ev⟩] →
    ∀ i < s.params.npin,
      (lineBit ev.lng i = true →
        lineBit s.eds.lpdone i = false ∧ lineBit t.eds.lpdone i = true ∧ lineBit t.eds.cur i = false) ∧
      (lineBit s.eds.lpdone i = true → lineBit t.eds.cur i = false → lineBit t.eds.lpdone i = true)

/-- R156: `EDS.BIND` appends one slot and gives its index, or refuses with the sentinel and changes no register. -/
def Obligations.BindAppendsOrRefuses : Prop :=
  (∀ k : Byte, decode (0x22#8 ++ k) = .ok (.edsBind k)) ∧
  ∀ (s : State) (pin : Byte),
    (s.eds.nbind.toNat = s.params.nslot → exec (.edsBind pin) s = .next (s.answered 0xFFFFFFFF#32 false)) ∧
    (s.ports.wdata.getLsbD 0 = false → 8 * s.params.nb ≤ pin.toNat →
      exec (.edsBind pin) s = .next (s.answered 0xFFFFFFFF#32 false)) ∧
    (s.eds.nbind.toNat ≠ s.params.nslot → (s.ports.wdata.getLsbD 0 = true ∨ pin.toNat < 8 * s.params.nb) →
      exec (.edsBind pin) s = .next (({ s with eds := { s.eds with
        slots := s.eds.slots.set s.eds.nbind.toNat ⟨s.ports.wdata.getLsbD 0, pin⟩
        nbind := s.eds.nbind + 1#8 } } : State).answered (s.eds.nbind.setWidth 32) false))

/-- R157: `EDS.NEXT` gives the descriptor of the slot at the cursor, field by field, and advances the cursor; on an empty
table it gives the sentinel. -/
def Obligations.NextGivesTheSlotAtTheCursor : Prop :=
  (∀ k : Byte, decode (0x23#8 ++ k) = .ok .edsNext) ∧
  ∀ s : State,
    (s.eds.nbind = 0#8 → exec .edsNext s = .next (s.answered 0xFFFFFFFF#32 false)) ∧
    (s.eds.nbind ≠ 0#8 → ∃ v : Word,
      v.extractLsb' 17 15 = 0#15 ∧ v.getLsbD 16 = (s.eds.slot s.eds.cursor.toNat).byp ∧
      v.extractLsb' 8 8 = (s.eds.slot s.eds.cursor.toNat).pin ∧ v.extractLsb' 0 8 = s.eds.cursor ∧
      exec .edsNext s = .next (({ s with eds := { s.eds with
        cursor := if s.eds.cursor.toNat + 1 = s.eds.nbind.toNat then 0#8 else s.eds.cursor + 1#8 } } :
        State).answered v false))

/-- R40: the binding table is append-only: short of a reset, no step changes a slot in use or lowers NBIND, and only
`EDS.BIND` raises it. -/
def Obligations.BindingTableIsAppendOnly : Prop :=
  ∀ (s t : State) (w : CommandWord) (ports : Ports) (rest : List HostEvent), s.Sized → s.BindingOk →
    s.pending = .command w ports :: rest → decode w ≠ .ok .rst → step s = .next t →
    s.eds.nbind.toNat ≤ t.eds.nbind.toNat ∧ (∀ j < s.eds.nbind.toNat, t.eds.slot j = s.eds.slot j) ∧
    (t.eds.nbind ≠ s.eds.nbind → ∃ pin, decode w = .ok (.edsBind pin) ∧ t.eds.nbind.toNat = s.eds.nbind.toNat + 1)

/-! ## Encoder decoder -/

/-- R173: `QED.INIT`. -/
def Obligations.QedInitTakesTheLinesAsSeen : Prop :=
  (∀ k : Byte, decode (0x30#8 ++ k) = .ok .qedInit) ∧
  ∀ s : State, ∃ encs : List Encoder,
    exec .qedInit s = .next (({ s with qed := { s.qed with
      prev := planesOf s, swcur := (planesOf s).s, swpend := (planesOf s).s, swrun := false, swt0 := nowOf s,
      patt0 := nowOf s, qlparm := true, lplatch := 0#8, lasttick := nowOf s, encs := encs,
      chgup := 0#8, chgdn := 0#8, chgqup := 0#8, chgqdn := 0#8, cntchg := 0#8, modechg := 0#8 } } :
      State).answered 0#32 false) ∧
    encs.length = s.qed.encs.length ∧
    ∀ e < s.qed.encs.length, encs[e]? = some { s.qed.enc e with
      count := 0#32, trigv := false, mode := if 2 ≤ (s.qed.enc e).nmodes.toNat % 128 then 1#8 else 0#8 }

/-- R176: a tick with no elapsed time changes no register and gives an all-zero record, whatever the lines are. -/
def Obligations.TickWithoutElapsedTimeIsSkipped : Prop :=
  (∀ k : Byte, decode (0x31#8 ++ k) = .ok .qedUpd) ∧
  ∀ s : State, elapsed s.params (nowOf s) s.qed.lasttick = 0 →
    exec .qedUpd s = .next (s.answered 0#32 false (.tick ⟨0#8, 0#8, 0#8, 0#8, 0#8, 0#8, 0#8, 0#8, 0#8⟩))

/-- R174, R186, R177: what every processed tick records (the time, the lines) and what it leaves alone. -/
def Obligations.ProcessedTickFrame : Prop :=
  ∀ s : State, elapsed s.params (nowOf s) s.qed.lasttick ≠ 0 → ∃ (t : State) (ev : TickEvent),
    exec .qedUpd s = .next t ∧ t.responses = s.responses ++ [⟨0#32, false, .tick ev⟩] ∧
    (t.params = s.params ∧ t.dbf = s.dbf ∧ t.eds = s.eds ∧ t.ports = s.ports ∧ t.pending = s.pending) ∧
    (t.qed.inv = s.qed.inv ∧ t.qed.half = s.qed.half ∧ t.qed.modewrap = s.qed.modewrap) ∧
    t.qed.lasttick = nowOf s ∧ t.qed.prev = planesOf s ∧
    t.qed.encs.length = s.qed.encs.length ∧
    (∀ e < s.qed.encs.length, (t.qed.enc e).nmodes = (s.qed.enc e).nmodes) ∧
    (planesOf s = s.qed.prev →
      ev.up = 0#8 ∧ ev.dn = 0#8 ∧ ev.qup = 0#8 ∧ ev.qdn = 0#8 ∧
      t.qed.chgup = s.qed.chgup ∧ t.qed.chgdn = s.qed.chgdn ∧ t.qed.chgqup = s.qed.chgqup ∧
      t.qed.chgqdn = s.qed.chgqdn ∧ t.qed.cntchg = s.qed.cntchg)

/-- R178 to R180, R183: the trigger and the direction of encoder `e` in a processed tick, from the sampled line bits: a
rise of the (inverted) `A` counts up with `B = 0` and down with `B = 1`; a fall, of a half-cycle encoder only, the other
way round. The sense on the fall is PRESUMED (assumption log entry 17): R180 takes that reading of the source and marks
its reason as general knowledge (93_implementation_defined.md G1). -/
def Obligations.PulseDirectionOfEachEncoder : Prop :=
  ∀ s : State, s.Sized → elapsed s.params (nowOf s) s.qed.lasttick ≠ 0 → ∃ (t : State) (ev : TickEvent),
    exec .qedUpd s = .next t ∧ t.responses = s.responses ++ [⟨0#32, false, .tick ev⟩] ∧
    ∀ e < s.params.ne,
      ∀ a1 a0 b half : Bool,
        a1 = ((s.ports.rawEnc.getLsbD e) ^^ (s.qed.inv.getLsbD e)) →
        a0 = ((s.qed.prev.a.getLsbD e) ^^ (s.qed.inv.getLsbD e)) →
        b = s.ports.rawEnc.getLsbD (8 + e) → half = s.qed.half.getLsbD e →
        ev.up.getLsbD e = ((a1 && !a0 && !b) || (!a1 && a0 && half && b)) ∧
        ev.dn.getLsbD e = ((a1 && !a0 && b) || (!a1 && a0 && half && !b))

/-- R181 to R183: the step, the count and the quick flags of encoder `e` in a processed tick. -/
def Obligations.StepSizeAndCountOfEachEncoder : Prop :=
  ∀ s : State, s.Sized → elapsed s.params (nowOf s) s.qed.lasttick ≠ 0 → ∃ (t : State) (ev : TickEvent),
    exec .qedUpd s = .next t ∧ t.responses = s.responses ++ [⟨0#32, false, .tick ev⟩] ∧
    ∀ e < s.params.ne, ∃ (n : Nat) (quick : Bool),
      ((s.qed.enc e).trigv = true → elapsed s.params (nowOf s) (s.qed.enc e).trigt < s.params.tVfast →
        n = s.params.stepVfast ∧ quick = true) ∧
      ((s.qed.enc e).trigv = true → s.params.tVfast ≤ elapsed s.params (nowOf s) (s.qed.enc e).trigt →
        elapsed s.params (nowOf s) (s.qed.enc e).trigt < s.params.tFast → n = s.params.stepFast ∧ quick = true) ∧
      (((s.qed.enc e).trigv = false ∨ s.params.tFast ≤ elapsed s.params (nowOf s) (s.qed.enc e).trigt) →
        n = 1 ∧ quick = false) ∧
      ev.qup.getLsbD e = (ev.up.getLsbD e && quick) ∧ ev.qdn.getLsbD e = (ev.dn.getLsbD e && quick) ∧
      (ev.up.getLsbD e = true →
        (t.qed.enc e).count.toInt = Int.bmod ((s.qed.enc e).count.toInt + n) (2 ^ s.params.cw)) ∧
      (ev.dn.getLsbD e = true →
        (t.qed.enc e).count.toInt = Int.bmod ((s.qed.enc e).count.toInt - n) (2 ^ s.params.cw)) ∧
      (ev.up.getLsbD e = true ∨ ev.dn.getLsbD e = true → (t.qed.enc e).trigt = nowOf s ∧ (t.qed.enc e).trigv = true) ∧
      (ev.up.getLsbD e = false → ev.dn.getLsbD e = false →
        (t.qed.enc e).count = (s.qed.enc e).count ∧ (t.qed.enc e).trigt = (s.qed.enc e).trigt ∧
        (t.qed.enc e).trigv = (s.qed.enc e).trigv)

/-- R184: the sticky masks collect the pulse flags of every tick, processed or skipped. -/
def Obligations.StickyMasksCollectThePulses : Prop :=
  ∀ s : State, ∃ (t : State) (ev : TickEvent),
    exec .qedUpd s = .next t ∧ t.responses = s.responses ++ [⟨0#32, false, .tick ev⟩] ∧
    t.qed.chgup = s.qed.chgup ||| ev.up ∧ t.qed.chgdn = s.qed.chgdn ||| ev.dn ∧
    t.qed.chgqup = s.qed.chgqup ||| ev.qup ∧ t.qed.chgqdn = s.qed.chgqdn ||| ev.qdn ∧
    t.qed.cntchg = s.qed.cntchg ||| ev.up ||| ev.dn

/-- R185: encoders are independent: in a processed tick the count, the trigger registers and the pulse flags of encoder
`e` depend on that encoder's line bits, configuration bits and registers only. -/
def Obligations.EncodersAreIndependent : Prop :=
  ∀ (s s' t t' : State) (ev ev' : TickEvent) (e : Nat), s.Sized → s'.Sized → s.params = s'.params → e < s.params.ne →
    nowOf s = nowOf s' → s.qed.lasttick = s'.qed.lasttick → s.qed.enc e = s'.qed.enc e →
    s.ports.rawEnc.getLsbD e = s'.ports.rawEnc.getLsbD e →
    s.ports.rawEnc.getLsbD (8 + e) = s'.ports.rawEnc.getLsbD (8 + e) →
    s.qed.prev.a.getLsbD e = s'.qed.prev.a.getLsbD e → s.qed.inv.getLsbD e = s'.qed.inv.getLsbD e →
    s.qed.half.getLsbD e = s'.qed.half.getLsbD e →
    exec .qedUpd s = .next t → t.responses = s.responses ++ [⟨0#32, false, .tick ev⟩] →
    exec .qedUpd s' = .next t' → t'.responses = s'.responses ++ [⟨0#32, false, .tick ev'⟩] →
    (t.qed.enc e).count = (t'.qed.enc e).count ∧ (t.qed.enc e).trigt = (t'.qed.enc e).trigt ∧
    (t.qed.enc e).trigv = (t'.qed.enc e).trigv ∧
    ev.up.getLsbD e = ev'.up.getLsbD e ∧ ev.dn.getLsbD e = ev'.dn.getLsbD e ∧
    ev.qup.getLsbD e = ev'.qup.getLsbD e ∧ ev.qdn.getLsbD e = ev'.qdn.getLsbD e

/-- R187 to R189: the switch debounce of a processed tick, the flags and the timers of a commit. -/
def Obligations.SwitchesAreDebouncedAsOnePattern : Prop :=
  ∀ s : State, elapsed s.params (nowOf s) s.qed.lasttick ≠ 0 → ∃ (t : State) (ev : TickEvent),
    exec .qedUpd s = .next t ∧ t.responses = s.responses ++ [⟨0#32, false, .tick ev⟩] ∧
    ((planesOf s).s = s.qed.swcur →
      t.qed.swrun = false ∧ t.qed.swcur = s.qed.swcur ∧ t.qed.swpend = s.qed.swpend ∧ t.qed.swt0 = s.qed.swt0) ∧
    ((planesOf s).s ≠ s.qed.swcur →
      t.qed.swpend = (planesOf s).s ∧
      (s.qed.swrun = false ∨ (planesOf s).s ≠ s.qed.swpend → t.qed.swt0 = nowOf s) ∧
      (s.qed.swrun = true → (planesOf s).s = s.qed.swpend → t.qed.swt0 = s.qed.swt0) ∧
      (elapsed s.params (nowOf s) t.qed.swt0 < s.params.swDebounce →
        t.qed.swrun = true ∧ t.qed.swcur = s.qed.swcur) ∧
      (s.params.swDebounce ≤ elapsed s.params (nowOf s) t.qed.swt0 →
        t.qed.swrun = false ∧ t.qed.swcur = (planesOf s).s)) ∧
    ev.act = t.qed.swcur &&& ~~~ s.qed.swcur ∧ ev.deact = ~~~ t.qed.swcur &&& s.qed.swcur ∧
    ev.tog = t.qed.swcur ^^^ s.qed.swcur ∧ ev.shortp = ev.deact &&& ~~~ s.qed.lplatch ∧
    (t.qed.swcur ≠ s.qed.swcur → s.params.Legal →
      t.qed.lplatch = s.qed.lplatch &&& t.qed.swcur ∧ t.qed.patt0 = nowOf s ∧ t.qed.qlparm = true ∧ ev.longp = 0#8) ∧
    (t.qed.swcur = s.qed.swcur → t.qed.patt0 = s.qed.patt0)

/-- R190: the pattern long-press of a processed tick that commits no switch change. -/
def Obligations.PatternLongPressLatches : Prop :=
  ∀ s : State, elapsed s.params (nowOf s) s.qed.lasttick ≠ 0 → ∃ (t : State) (ev : TickEvent),
    exec .qedUpd s = .next t ∧ t.responses = s.responses ++ [⟨0#32, false, .tick ev⟩] ∧
    (t.qed.swcur = s.qed.swcur →
      (s.qed.qlparm = true → s.qed.swcur ≠ 0#8 →
        10 * s.params.encLpt ≤ elapsed s.params (nowOf s) s.qed.patt0 →
        ev.longp = s.qed.swcur &&& ~~~ s.qed.lplatch ∧ t.qed.lplatch = s.qed.lplatch ||| s.qed.swcur ∧
        t.qed.qlparm = false) ∧
      ((s.qed.qlparm = false ∨ s.qed.swcur = 0#8 ∨
          elapsed s.params (nowOf s) s.qed.patt0 < 10 * s.params.encLpt) →
        ev.longp = 0#8 ∧ t.qed.lplatch = s.qed.lplatch ∧ t.qed.qlparm = s.qed.qlparm))

/-- R191, R193: the mode of encoder `e` after a processed tick, and the changed bit. -/
def Obligations.ModeCyclingOfEachEncoder : Prop :=
  ∀ s : State, s.Sized → elapsed s.params (nowOf s) s.qed.lasttick ≠ 0 → ∃ (t : State) (ev : TickEvent),
    exec .qedUpd s = .next t ∧ t.responses = s.responses ++ [⟨0#32, false, .tick ev⟩] ∧
    ∀ e < s.params.ne, ∀ (n : Nat) (trig : Bool),
      n = (s.qed.enc e).nmodes.toNat % 128 →
      trig = (if (s.qed.enc e).nmodes.getLsbD 7 then ev.longp.getLsbD e else ev.shortp.getLsbD e) →
      (n = 0 → (t.qed.enc e).mode = (s.qed.enc e).mode) ∧
      (n = 1 → (s.qed.enc e).nmodes.getLsbD 7 = false →
        (t.qed.enc e).mode = if t.qed.swcur.getLsbD e then 1#8 else 0#8) ∧
      (n = 1 → (s.qed.enc e).nmodes.getLsbD 7 = true → (t.qed.enc e).mode = (s.qed.enc e).mode) ∧
      (2 ≤ n → trig = false → (t.qed.enc e).mode = (s.qed.enc e).mode) ∧
      (2 ≤ n → trig = true → (s.qed.enc e).mode.toNat < n →
        (t.qed.enc e).mode.toNat = (s.qed.enc e).mode.toNat + 1) ∧
      (2 ≤ n → trig = true → n ≤ (s.qed.enc e).mode.toNat → s.qed.modewrap.getLsbD e = true →
        (t.qed.enc e).mode = 1#8) ∧
      (2 ≤ n → trig = true → n ≤ (s.qed.enc e).mode.toNat → s.qed.modewrap.getLsbD e = false →
        (t.qed.enc e).mode.toNat = n) ∧
      t.qed.modechg.getLsbD e = (s.qed.modechg.getLsbD e || decide ((t.qed.enc e).mode ≠ (s.qed.enc e).mode))

/-- R194: `QED.RDACC e` reads and resets the count; `CNTCHG` and the sticky masks stay. -/
def Obligations.RdaccReadsAndResetsTheCount : Prop :=
  (∀ k : Byte, decode (0x32#8 ++ k) = .ok (.qedRdacc k)) ∧
  ∀ (s : State) (e : Byte),
    (e.toNat < s.params.ne → ∃ x : Encoder, x = { s.qed.enc e.toNat with count := 0#32 } ∧
      exec (.qedRdacc e) s =
        .next (({ s with qed := { s.qed with encs := s.qed.encs.set e.toNat x } } : State).answered
          (s.qed.enc e.toNat).count false)) ∧
    (s.params.ne ≤ e.toNat → exec (.qedRdacc e) s = .next (s.answered 0#32 false))

/-- R195, R196: `QED.RDABS e` gives the count with its changed bit, `QED.RDMODE e` the mode with its changed bit; each
clears that one bit and nothing else, and the count is not reset. -/
def Obligations.RdabsAndRdmodeClearTheirChangedBit : Prop :=
  (∀ k : Byte, decode (0x33#8 ++ k) = .ok (.qedRdabs k) ∧ decode (0x34#8 ++ k) = .ok (.qedRdmode k)) ∧
  ∀ (s : State) (e : Byte),
    (e.toNat < s.params.ne →
      (∃ chg : Byte, (∀ i, chg.getLsbD i = (s.qed.cntchg.getLsbD i && decide (i ≠ e.toNat))) ∧
        exec (.qedRdabs e) s = .next (({ s with qed := { s.qed with cntchg := chg } } :
          State).answered (s.qed.enc e.toNat).count (s.qed.cntchg.getLsbD e.toNat))) ∧
      (∃ chg : Byte, (∀ i, chg.getLsbD i = (s.qed.modechg.getLsbD i && decide (i ≠ e.toNat))) ∧
        exec (.qedRdmode e) s = .next (({ s with qed := { s.qed with modechg := chg } } :
          State).answered ((s.qed.enc e.toNat).mode.setWidth 32) (s.qed.modechg.getLsbD e.toNat)))) ∧
    (s.params.ne ≤ e.toNat →
      exec (.qedRdabs e) s = .next (s.answered 0#32 false) ∧ exec (.qedRdmode e) s = .next (s.answered 0#32 false))

/-- R197: `QED.RDTRN` reads and clears the four sticky masks. -/
def Obligations.RdtrnReadsAndClearsTheStickyMasks : Prop :=
  (∀ k : Byte, decode (0x35#8 ++ k) = .ok .qedRdtrn) ∧
  ∀ s : State, ∃ v : Word,
    v.extractLsb' 24 8 = s.qed.chgqdn ∧ v.extractLsb' 16 8 = s.qed.chgqup ∧ v.extractLsb' 8 8 = s.qed.chgdn ∧
    v.extractLsb' 0 8 = s.qed.chgup ∧
    exec .qedRdtrn s = .next (({ s with qed := { s.qed with
      chgup := 0#8, chgdn := 0#8, chgqup := 0#8, chgqdn := 0#8 } } : State).answered v false)

/-- R198(d): short of a reset, `QED.INIT` and `QED.RDACC e`, a step changes the count of encoder `e` only by a decode
event of that encoder, which also sets its `CNTCHG` bit. -/
def Obligations.CountsChangeOnlyByDecodeEvents : Prop :=
  ∀ (s t : State) (w : CommandWord) (ports : Ports) (rest : List HostEvent) (e : Nat) (k : Byte),
    s.Sized → s.pending = .command w ports :: rest → step s = .next t → e < s.params.ne → k.toNat = e →
    decode w ≠ .ok .rst → decode w ≠ .ok .qedInit → decode w ≠ .ok (.qedRdacc k) →
    (t.qed.enc e).count ≠ (s.qed.enc e).count →
    decode w = .ok .qedUpd ∧ t.qed.cntchg.getLsbD e = true ∧ (t.qed.enc e).trigt = keepLow s.params.tw ports.now

/-! ## Whole-machine rules -/

/-- R259: the operations that do not name `now` do not look at it: another `now` gives the same next state, but for the
port itself. -/
def Obligations.UntimedOperationsIgnoreNow : Prop :=
  ∀ (i : Instr) (s : State) (time : Time),
    i ≠ .edsInit → i ≠ .edsPoll → i ≠ .qedInit → i ≠ .qedUpd → (∀ f, i ≠ .dbfUpd f) →
    ∃ t : State, exec i s = .next t ∧
      exec i { s with ports := { s.ports with now := time } } =
        .next { t with ports := { s.ports with now := time } }

/-- R96, R199(g), X4: bits that no operation uses change nothing: port values that agree in the low TW bits of `now`, the
low 8*NB bits of `raw_btn` and the bits of implemented encoders in `raw_enc` give the same next state, but for the ports
themselves. -/
def Obligations.UnusedPortBitsAreIgnored : Prop :=
  ∀ (i : Instr) (s : State) (q : Ports), s.params.Legal → q.wdata = s.ports.wdata →
    q.now.toNat % 2 ^ s.params.tw = s.ports.now.toNat % 2 ^ s.params.tw →
    (∀ b < s.params.npin, q.rawBtn.getLsbD b = s.ports.rawBtn.getLsbD b) →
    (∀ e < s.params.ne, q.rawEnc.getLsbD e = s.ports.rawEnc.getLsbD e ∧
      q.rawEnc.getLsbD (8 + e) = s.ports.rawEnc.getLsbD (8 + e) ∧
      q.rawEnc.getLsbD (16 + e) = s.ports.rawEnc.getLsbD (16 + e)) →
    ∃ t : State, exec i s = .next t ∧ exec i { s with ports := q } = .next { t with ports := q }

/-- R22: each unit's registers are written by that unit's operations only (and by `WR` and `RST`): a DBF operation changes
no register of the EDS or the QED, and so on; a DBF operation changes no other instance than the one it names. -/
def Obligations.UnitsWriteOnlyTheirOwnRegisters : Prop :=
  ∀ (s t : State) (k : Byte),
    ((exec (.dbfInit k) s = .next t ∨ exec (.dbfUpd k) s = .next t ∨ exec (.dbfStat k) s = .next t) →
      t.eds = s.eds ∧ t.qed = s.qed ∧ ∀ f, f ≠ k.toNat → t.filter f = s.filter f) ∧
    ((exec .edsInit s = .next t ∨ exec .edsPoll s = .next t ∨ exec (.edsBind k) s = .next t ∨
      exec .edsNext s = .next t) → t.dbf = s.dbf ∧ t.qed = s.qed) ∧
    ((exec .qedInit s = .next t ∨ exec .qedUpd s = .next t ∨ exec (.qedRdacc k) s = .next t ∨
      exec (.qedRdabs k) s = .next t ∨ exec (.qedRdmode k) s = .next t ∨ exec .qedRdtrn s = .next t) →
      t.dbf = s.dbf ∧ t.eds = s.eds)

/-! ## Invariants -/

/-- The reset state meets every invariant, for every legal choice of the parameters. -/
def Obligations.ResetStateIsGood : Prop :=
  ∀ p : Params, p.Legal → (State.resetWith p).Good

/-- R20, R24 to R27, R29, R35 to R37, R40, R47, R49, R50, R56, R57: every step keeps the parameters legal and every
register file at its size, and every register within its width. -/
def Obligations.EveryStepKeepsSizesAndWidths : Prop :=
  ∀ s t : State, s.Sized → step s = .next t → t.Sized ∧ (s.InRange → t.InRange)

/-- R113, R123, R124: every step keeps every filter coherent. -/
def Obligations.EveryStepKeepsFiltersCoherent : Prop :=
  ∀ s t : State, s.Sized → s.FiltersCoherent → step s = .next t → t.FiltersCoherent

/-- R40, R41, R154: every step keeps the binding table well formed. -/
def Obligations.EveryStepKeepsTheBindingTable : Prop :=
  ∀ s t : State, s.Sized → s.BindingOk → step s = .next t → t.BindingOk

/-- R34, R39, R145, R147: every step keeps the long-press mask on active lines, and the candidate of a running debounce
timer different from the committed vector. -/
def Obligations.EveryStepKeepsTheLineMasks : Prop :=
  ∀ s t : State, s.Sized → s.LinesOk → step s = .next t → t.LinesOk

/-- R43 to R45, R48, R51, R52, R54 to R56, R58 and R183, R187, R189, R190: every step keeps every encoder mask within
EMASK; and it keeps only held switches latched, the candidate of a running switch timer different from the debounced
pattern, and a quick flag with its plain flag. -/
def Obligations.EveryStepKeepsTheEncoderMasks : Prop :=
  ∀ s t : State, s.Sized → step s = .next t → (s.MasksOk → t.MasksOk) ∧ (s.SwitchesOk → t.SwitchesOk)

/-- R53, R191 to R193: every step keeps every mode legal for its mode byte. -/
def Obligations.EveryStepKeepsModesLegal : Prop :=
  ∀ s t : State, s.Sized → s.ModesLegal → step s = .next t → t.ModesLegal
end

