-- ==== Sys2Proof/Laws/Operands.lean ====
section
/-! SUPPORT. What the operand readings and the width arithmetic of Machine/Operands.lean can do, and the two laws of a mask
built from a list of bits. -/

namespace Sys2Proof.Machine

/-! ## Widths -/

theorem keepLow_toNat {w : Nat} (n : Nat) (v : BitVec w) (h : n ≤ w) : (keepLow n v).toNat = v.toNat % 2 ^ n := by
  have h1 : v.toNat % 2 ^ n < 2 ^ w :=
    Nat.lt_of_lt_of_le (Nat.mod_lt _ (Nat.two_pow_pos n)) (Nat.pow_le_pow_right (by decide) h)
  simp [keepLow, Nat.mod_eq_of_lt h1]

theorem keepLow_lt {w : Nat} (n : Nat) (v : BitVec w) (h : n ≤ w) : (keepLow n v).toNat < 2 ^ n := by
  rw [keepLow_toNat n v h]; exact Nat.mod_lt _ (Nat.two_pow_pos n)

/-- A cut value depends on the low bits only. -/
theorem keepLow_congr {w : Nat} (n : Nat) (u v : BitVec w) (h : n ≤ w) (e : u.toNat % 2 ^ n = v.toNat % 2 ^ n) :
    keepLow n u = keepLow n v := by
  apply BitVec.eq_of_toNat_eq; rw [keepLow_toNat n u h, keepLow_toNat n v h, e]

theorem keepSigned_toInt (n : Nat) (v : Word) (h : n ≤ 32) : (keepSigned n v).toInt = Int.bmod v.toNat (2 ^ n) := by
  rw [keepSigned, BitVec.toInt_signExtend_of_le h, BitVec.toInt_setWidth]

/-- A signed value is cut once. -/
theorem keepSigned_idem (n : Nat) (v : Word) (h : n ≤ 32) : keepSigned n (keepSigned n v) = keepSigned n v := by
  have : ((v.setWidth n).signExtend 32).setWidth n = v.setWidth n := by
    apply BitVec.eq_of_getLsbD_eq; intro i hi
    have : i < 32 := by omega
    simp [BitVec.getElem_signExtend, hi, this]
  simp [keepSigned, this]

@[simp] theorem keepSigned_zero (n : Nat) : keepSigned n 0#32 = 0#32 := by
  apply BitVec.eq_of_getLsbD_eq; intro i hi
  simp [keepSigned, BitVec.getLsbD_signExtend, BitVec.msb_eq_getLsbD_last]

/-! ## Times -/

theorem elapsed_lt (p : Params) (now t : Time) : elapsed p now t < 2 ^ p.tw := Nat.mod_lt _ (Nat.two_pow_pos _)

@[simp] theorem elapsed_self (p : Params) (now : Time) : elapsed p now now = 0 := by simp [elapsed]

theorem expired_iff (p : Params) (now t : Time) (w : Nat) : expired p now t w = true ↔ w ≤ elapsed p now t := by
  simp [expired]

theorem expired_false_iff (p : Params) (now t : Time) (w : Nat) : expired p now t w = false ↔ elapsed p now t < w := by
  simp [expired]

/-- A timer started now has expired only for a zero window. -/
@[simp] theorem expired_now (p : Params) (now : Time) (w : Nat) : expired p now now w = decide (w = 0) := by
  simp [expired]

theorem elapsed_of_lt (p : Params) (now t : Time) (h : p.tw ≤ 64) (hn : now.toNat < 2 ^ p.tw) (ht : t.toNat < 2 ^ p.tw) :
    elapsed p now t = (now.toNat + 2 ^ p.tw - t.toNat) % 2 ^ p.tw := by
  obtain ⟨c, hc⟩ := Nat.pow_dvd_pow 2 h
  have hc1 : 1 ≤ c := by
    rcases Nat.eq_zero_or_pos c with h0 | h0
    · rw [h0] at hc; simp at hc
    · exact h0
  rw [elapsed, BitVec.toNat_sub, Nat.mod_mod_of_dvd _ (Nat.pow_dvd_pow 2 h)]
  have h64 : 2 ^ 64 - t.toNat + now.toNat = (now.toNat + 2 ^ p.tw - t.toNat) + 2 ^ p.tw * (c - 1) := by
    rw [hc]
    have : 2 ^ p.tw * c = 2 ^ p.tw * (c - 1) + 2 ^ p.tw := by
      obtain ⟨d, rfl⟩ : ∃ d, c = d + 1 := ⟨c - 1, by omega⟩
      simp [Nat.mul_succ]
    omega
  rw [h64, Nat.add_mul_mod_self_left]

theorem elapsed_add (p : Params) (t : Time) (d : Nat) (h : p.tw ≤ 64) (hd : d < 2 ^ p.tw) :
    elapsed p (t + BitVec.ofNat 64 d) t = d := by
  have h64 : d < 2 ^ 64 := Nat.lt_of_lt_of_le hd (Nat.pow_le_pow_right (by decide) h)
  have : t + BitVec.ofNat 64 d - t = BitVec.ofNat 64 d := by
    rw [BitVec.add_comm, BitVec.add_sub_cancel]
  rw [elapsed, this, BitVec.toNat_ofNat, Nat.mod_eq_of_lt h64, Nat.mod_eq_of_lt hd]

/-! ## Masks -/

theorem emask_getLsbD (p : Params) (e : Nat) (h : p.ne ≤ 8) : p.emask.getLsbD e = decide (e < p.ne) := by
  rw [Params.emask, BitVec.getLsbD_ofNat, Nat.testBit_two_pow_sub_one]
  by_cases he : e < p.ne
  · have : e < 8 := by omega
    simp [he, this]
  · simp [he]

theorem maskOf_getLsbD (l : List Bool) (e : Nat) (h : l.length ≤ 8) : (maskOf l).getLsbD e = l.getD e false := by
  rw [maskOf, BitVec.getLsbD_setWidth, BitVec.getLsbD_ofBoolListLE]
  by_cases he : e < 8
  · simp [he]
  · have : l.length ≤ e := by omega
    simp [he, this]

theorem clearBit_getLsbD (m : Byte) (e i : Nat) : (clearBit m e).getLsbD i = (m.getLsbD i && decide (i ≠ e)) := by
  rw [clearBit, BitVec.getLsbD_and, BitVec.getLsbD_not, BitVec.getLsbD_shiftLeft, BitVec.getLsbD_one]
  by_cases hi : i < 8
  · by_cases he : i = e
    · subst he; simp [hi]
    · rcases Nat.lt_or_gt_of_ne he with h | h
      · simp [hi, he, h]
      · have h1 : ¬ i < e := by omega
        have h2 : ¬ i - e = 0 := by omega
        simp [hi, he, h1, h2]
  · have : m.getLsbD i = false := BitVec.getLsbD_of_ge m i (by omega)
    simp [this]

/-! ## Bank lists -/

theorem getD_of_getElem? (l : List Byte) (b : Nat) (x : Byte) (h : l[b]? = some x) : l.getD b 0#8 = x := by
  simp [List.getD, h]

/-- A bank-wise operation on two banks of one length. -/
theorem zipWith_getElem? (g : Byte → Byte → Byte) (l r : List Byte) (b n : Nat) (hl : l.length = n) (hr : r.length = n)
    (hb : b < n) : (List.zipWith g l r)[b]? = some (g (l.getD b 0#8) (r.getD b 0#8)) := by
  simp [List.getD, hl, hr, hb]

@[simp] theorem lineBit_replicate_zero (n i : Nat) : lineBit (List.replicate n 0#8) i = false := by
  simp only [lineBit, List.getD, List.getElem?_replicate]
  split <;> simp

/-- Logical index `i` of the raw banks is bit `i` of the button vector (R74). -/
theorem lineBit_rawBanksOf (s : State) (i : Nat) (h : i < s.params.npin) :
    lineBit (rawBanksOf s) i = s.ports.rawBtn.getLsbD i := by
  have hb : i / 8 < s.params.nb := by unfold Params.npin at h; omega
  have hr : (rawBanksOf s).getD (i / 8) 0#8 = rawBank s.ports.rawBtn (i / 8) := by simp [rawBanksOf, List.getD, hb]
  rw [lineBit, hr, rawBank, BitVec.getLsbD_extractLsb']
  have h1 : i % 8 < 8 := by omega
  have h2 : 8 * (i / 8) + i % 8 = i := by omega
  simp [h1, h2]

/-! ## Operands -/

theorem nowOf_lt (s : State) (h : s.params.tw ≤ 64) : (nowOf s).toNat < 2 ^ s.params.tw := keepLow_lt _ _ h

theorem scalarOf_lt (s : State) (h : s.params.vw ≤ 32) : (scalarOf s).toNat < 2 ^ s.params.vw := keepLow_lt _ _ h

@[simp] theorem rawBanksOf_length (s : State) : (rawBanksOf s).length = s.params.nb := by simp [rawBanksOf]

theorem rawBanksOf_getD (s : State) (b : Nat) (h : b < s.params.nb) :
    (rawBanksOf s).getD b 0#8 = rawBank s.ports.rawBtn b := by
  simp [rawBanksOf, List.getD, h]

theorem rawBank_getLsbD (v : ButtonVector) (b p : Nat) (h : p < 8) : (rawBank v b).getLsbD p = v.getLsbD (8 * b + p) := by
  simp [rawBank, h]

theorem planesOf_a_getLsbD (s : State) (e : Nat) (h : s.params.ne ≤ 8) :
    (planesOf s).a.getLsbD e = (decide (e < s.params.ne) && s.ports.rawEnc.getLsbD e) := by
  by_cases he : e < s.params.ne
  · have : e < 8 := by omega
    simp [planesOf, unpack, emask_getLsbD _ _ h, he, this]
  · simp [planesOf, unpack, emask_getLsbD _ _ h, he]

theorem planesOf_b_getLsbD (s : State) (e : Nat) (h : s.params.ne ≤ 8) :
    (planesOf s).b.getLsbD e = (decide (e < s.params.ne) && s.ports.rawEnc.getLsbD (8 + e)) := by
  by_cases he : e < s.params.ne
  · have : e < 8 := by omega
    simp [planesOf, unpack, emask_getLsbD _ _ h, he, this]
  · simp [planesOf, unpack, emask_getLsbD _ _ h, he]

theorem planesOf_s_getLsbD (s : State) (e : Nat) (h : s.params.ne ≤ 8) :
    (planesOf s).s.getLsbD e = (decide (e < s.params.ne) && s.ports.rawEnc.getLsbD (16 + e)) := by
  by_cases he : e < s.params.ne
  · have : e < 8 := by omega
    simp [planesOf, unpack, emask_getLsbD _ _ h, he, this]
  · simp [planesOf, unpack, emask_getLsbD _ _ h, he]

/-- The planes hold bits of implemented encoders only. -/
theorem planesOf_within (s : State) :
    WithinEmask s.params (planesOf s).a ∧ WithinEmask s.params (planesOf s).b ∧ WithinEmask s.params (planesOf s).s := by
  simp [WithinEmask, planesOf, unpack, BitVec.and_assoc]

end Sys2Proof.Machine
end

