-- ==== Sys2Proof/Laws/State.lean ====
section
/-! SUPPORT. One lemma for each field of each named update of the state and of its parts: what the update leaves in the
field. No proof need unfold one of these updates. -/

namespace Sys2Proof.Machine

/-! ### `State.setFilter` -/

@[simp] theorem State.setFilter_params (s : State) (f : Nat) (x : Filter) : (s.setFilter f x).params = s.params := rfl
@[simp] theorem State.setFilter_dbf (s : State) (f : Nat) (x : Filter) : (s.setFilter f x).dbf = s.dbf.set f x := rfl
@[simp] theorem State.setFilter_eds (s : State) (f : Nat) (x : Filter) : (s.setFilter f x).eds = s.eds := rfl
@[simp] theorem State.setFilter_qed (s : State) (f : Nat) (x : Filter) : (s.setFilter f x).qed = s.qed := rfl
@[simp] theorem State.setFilter_ports (s : State) (f : Nat) (x : Filter) : (s.setFilter f x).ports = s.ports := rfl
@[simp] theorem State.setFilter_pending (s : State) (f : Nat) (x : Filter) :
    (s.setFilter f x).pending = s.pending := rfl
@[simp] theorem State.setFilter_responses (s : State) (f : Nat) (x : Filter) :
    (s.setFilter f x).responses = s.responses := rfl

/-! ### `State.sample` -/

@[simp] theorem State.sample_params (s : State) (rest : List HostEvent) (q : Ports) :
    (s.sample rest q).params = s.params := rfl
@[simp] theorem State.sample_dbf (s : State) (rest : List HostEvent) (q : Ports) : (s.sample rest q).dbf = s.dbf := rfl
@[simp] theorem State.sample_eds (s : State) (rest : List HostEvent) (q : Ports) : (s.sample rest q).eds = s.eds := rfl
@[simp] theorem State.sample_qed (s : State) (rest : List HostEvent) (q : Ports) : (s.sample rest q).qed = s.qed := rfl
@[simp] theorem State.sample_ports (s : State) (rest : List HostEvent) (q : Ports) : (s.sample rest q).ports = q := rfl
@[simp] theorem State.sample_pending (s : State) (rest : List HostEvent) (q : Ports) :
    (s.sample rest q).pending = rest := rfl
@[simp] theorem State.sample_responses (s : State) (rest : List HostEvent) (q : Ports) :
    (s.sample rest q).responses = s.responses := rfl

/-! ### `State.resetBlock` -/

@[simp] theorem State.resetBlock_params (s : State) : (s.resetBlock).params = s.params := rfl
@[simp] theorem State.resetBlock_dbf (s : State) : (s.resetBlock).dbf = List.replicate s.params.nf Filter.reset := rfl
@[simp] theorem State.resetBlock_eds (s : State) : (s.resetBlock).eds = Eds.reset s.params := rfl
@[simp] theorem State.resetBlock_qed (s : State) : (s.resetBlock).qed = Qed.reset s.params := rfl
@[simp] theorem State.resetBlock_ports (s : State) : (s.resetBlock).ports = s.ports := rfl
@[simp] theorem State.resetBlock_pending (s : State) : (s.resetBlock).pending = s.pending := rfl
@[simp] theorem State.resetBlock_responses (s : State) : (s.resetBlock).responses = s.responses := rfl

/-! ### `State.resetWith` -/

@[simp] theorem State.resetWith_params (p : Params) : (State.resetWith p).params = p := rfl
@[simp] theorem State.resetWith_dbf (p : Params) : (State.resetWith p).dbf = List.replicate p.nf Filter.reset := rfl
@[simp] theorem State.resetWith_eds (p : Params) : (State.resetWith p).eds = Eds.reset p := rfl
@[simp] theorem State.resetWith_qed (p : Params) : (State.resetWith p).qed = Qed.reset p := rfl
@[simp] theorem State.resetWith_ports (p : Params) : (State.resetWith p).ports = Ports.zero := rfl
@[simp] theorem State.resetWith_pending (p : Params) : (State.resetWith p).pending = [] := rfl
@[simp] theorem State.resetWith_responses (p : Params) : (State.resetWith p).responses = [] := rfl

/-! ### `Filter.load` -/

@[simp] theorem Filter.load_policy (x : Filter) (v : Word) : (x.load v).policy = x.policy := rfl
@[simp] theorem Filter.load_window (x : Filter) (v : Word) : (x.load v).window = x.window := rfl
@[simp] theorem Filter.load_out (x : Filter) (v : Word) : (x.load v).out = v := rfl
@[simp] theorem Filter.load_cand (x : Filter) (v : Word) : (x.load v).cand = v := rfl
@[simp] theorem Filter.load_t0 (x : Filter) (v : Word) : (x.load v).t0 = x.t0 := rfl
@[simp] theorem Filter.load_run (x : Filter) (v : Word) : (x.load v).run = false := rfl

/-! ### `Filter.withPolicy` -/

@[simp] theorem Filter.withPolicy_policy (x : Filter) (c : Policy) : (x.withPolicy c).policy = c := rfl
@[simp] theorem Filter.withPolicy_window (x : Filter) (c : Policy) : (x.withPolicy c).window = x.window := rfl
@[simp] theorem Filter.withPolicy_out (x : Filter) (c : Policy) : (x.withPolicy c).out = x.out := rfl
@[simp] theorem Filter.withPolicy_cand (x : Filter) (c : Policy) : (x.withPolicy c).cand = x.out := rfl
@[simp] theorem Filter.withPolicy_t0 (x : Filter) (c : Policy) : (x.withPolicy c).t0 = x.t0 := rfl
@[simp] theorem Filter.withPolicy_run (x : Filter) (c : Policy) : (x.withPolicy c).run = false := rfl

/-! ### `Eds.load` -/

@[simp] theorem Eds.load_debounce (d : Eds) (raw : List Byte) (now : Time) :
    (d.load raw now).debounce = d.debounce := rfl
@[simp] theorem Eds.load_repdly (d : Eds) (raw : List Byte) (now : Time) : (d.load raw now).repdly = d.repdly := rfl
@[simp] theorem Eds.load_repint (d : Eds) (raw : List Byte) (now : Time) : (d.load raw now).repint = d.repint := rfl
@[simp] theorem Eds.load_lpdly (d : Eds) (raw : List Byte) (now : Time) : (d.load raw now).lpdly = d.lpdly := rfl
@[simp] theorem Eds.load_cur (d : Eds) (raw : List Byte) (now : Time) : (d.load raw now).cur = raw := rfl
@[simp] theorem Eds.load_pend (d : Eds) (raw : List Byte) (now : Time) : (d.load raw now).pend = raw := rfl
@[simp] theorem Eds.load_debt0 (d : Eds) (raw : List Byte) (now : Time) : (d.load raw now).debt0 = d.debt0 := rfl
@[simp] theorem Eds.load_debrun (d : Eds) (raw : List Byte) (now : Time) : (d.load raw now).debrun = false := rfl
@[simp] theorem Eds.load_anchor (d : Eds) (raw : List Byte) (now : Time) : (d.load raw now).anchor = now := rfl
@[simp] theorem Eds.load_repph (d : Eds) (raw : List Byte) (now : Time) : (d.load raw now).repph = false := rfl
@[simp] theorem Eds.load_rept0 (d : Eds) (raw : List Byte) (now : Time) : (d.load raw now).rept0 = now := rfl
@[simp] theorem Eds.load_lparm (d : Eds) (raw : List Byte) (now : Time) : (d.load raw now).lparm = true := rfl
@[simp] theorem Eds.load_lpdone (d : Eds) (raw : List Byte) (now : Time) :
    (d.load raw now).lpdone = raw.map (fun _ => 0#8) := rfl
@[simp] theorem Eds.load_nbind (d : Eds) (raw : List Byte) (now : Time) : (d.load raw now).nbind = d.nbind := rfl
@[simp] theorem Eds.load_slots (d : Eds) (raw : List Byte) (now : Time) : (d.load raw now).slots = d.slots := rfl
@[simp] theorem Eds.load_cursor (d : Eds) (raw : List Byte) (now : Time) : (d.load raw now).cursor = d.cursor := rfl

/-! ### `Eds.append` -/

@[simp] theorem Eds.append_debounce (d : Eds) (t : Slot) : (d.append t).debounce = d.debounce := rfl
@[simp] theorem Eds.append_repdly (d : Eds) (t : Slot) : (d.append t).repdly = d.repdly := rfl
@[simp] theorem Eds.append_repint (d : Eds) (t : Slot) : (d.append t).repint = d.repint := rfl
@[simp] theorem Eds.append_lpdly (d : Eds) (t : Slot) : (d.append t).lpdly = d.lpdly := rfl
@[simp] theorem Eds.append_cur (d : Eds) (t : Slot) : (d.append t).cur = d.cur := rfl
@[simp] theorem Eds.append_pend (d : Eds) (t : Slot) : (d.append t).pend = d.pend := rfl
@[simp] theorem Eds.append_debt0 (d : Eds) (t : Slot) : (d.append t).debt0 = d.debt0 := rfl
@[simp] theorem Eds.append_debrun (d : Eds) (t : Slot) : (d.append t).debrun = d.debrun := rfl
@[simp] theorem Eds.append_anchor (d : Eds) (t : Slot) : (d.append t).anchor = d.anchor := rfl
@[simp] theorem Eds.append_repph (d : Eds) (t : Slot) : (d.append t).repph = d.repph := rfl
@[simp] theorem Eds.append_rept0 (d : Eds) (t : Slot) : (d.append t).rept0 = d.rept0 := rfl
@[simp] theorem Eds.append_lparm (d : Eds) (t : Slot) : (d.append t).lparm = d.lparm := rfl
@[simp] theorem Eds.append_lpdone (d : Eds) (t : Slot) : (d.append t).lpdone = d.lpdone := rfl
@[simp] theorem Eds.append_nbind (d : Eds) (t : Slot) : (d.append t).nbind = d.nbind + 1#8 := rfl
@[simp] theorem Eds.append_slots (d : Eds) (t : Slot) : (d.append t).slots = d.slots.set d.nbind.toNat t := rfl
@[simp] theorem Eds.append_cursor (d : Eds) (t : Slot) : (d.append t).cursor = d.cursor := rfl

/-! ### `Qed.setEnc` -/

@[simp] theorem Qed.setEnc_inv (q : Qed) (e : Nat) (x : Encoder) : (q.setEnc e x).inv = q.inv := rfl
@[simp] theorem Qed.setEnc_half (q : Qed) (e : Nat) (x : Encoder) : (q.setEnc e x).half = q.half := rfl
@[simp] theorem Qed.setEnc_modewrap (q : Qed) (e : Nat) (x : Encoder) : (q.setEnc e x).modewrap = q.modewrap := rfl
@[simp] theorem Qed.setEnc_lasttick (q : Qed) (e : Nat) (x : Encoder) : (q.setEnc e x).lasttick = q.lasttick := rfl
@[simp] theorem Qed.setEnc_prev (q : Qed) (e : Nat) (x : Encoder) : (q.setEnc e x).prev = q.prev := rfl
@[simp] theorem Qed.setEnc_chgup (q : Qed) (e : Nat) (x : Encoder) : (q.setEnc e x).chgup = q.chgup := rfl
@[simp] theorem Qed.setEnc_chgdn (q : Qed) (e : Nat) (x : Encoder) : (q.setEnc e x).chgdn = q.chgdn := rfl
@[simp] theorem Qed.setEnc_chgqup (q : Qed) (e : Nat) (x : Encoder) : (q.setEnc e x).chgqup = q.chgqup := rfl
@[simp] theorem Qed.setEnc_chgqdn (q : Qed) (e : Nat) (x : Encoder) : (q.setEnc e x).chgqdn = q.chgqdn := rfl
@[simp] theorem Qed.setEnc_cntchg (q : Qed) (e : Nat) (x : Encoder) : (q.setEnc e x).cntchg = q.cntchg := rfl
@[simp] theorem Qed.setEnc_modechg (q : Qed) (e : Nat) (x : Encoder) : (q.setEnc e x).modechg = q.modechg := rfl
@[simp] theorem Qed.setEnc_swcur (q : Qed) (e : Nat) (x : Encoder) : (q.setEnc e x).swcur = q.swcur := rfl
@[simp] theorem Qed.setEnc_swpend (q : Qed) (e : Nat) (x : Encoder) : (q.setEnc e x).swpend = q.swpend := rfl
@[simp] theorem Qed.setEnc_swt0 (q : Qed) (e : Nat) (x : Encoder) : (q.setEnc e x).swt0 = q.swt0 := rfl
@[simp] theorem Qed.setEnc_swrun (q : Qed) (e : Nat) (x : Encoder) : (q.setEnc e x).swrun = q.swrun := rfl
@[simp] theorem Qed.setEnc_patt0 (q : Qed) (e : Nat) (x : Encoder) : (q.setEnc e x).patt0 = q.patt0 := rfl
@[simp] theorem Qed.setEnc_qlparm (q : Qed) (e : Nat) (x : Encoder) : (q.setEnc e x).qlparm = q.qlparm := rfl
@[simp] theorem Qed.setEnc_lplatch (q : Qed) (e : Nat) (x : Encoder) : (q.setEnc e x).lplatch = q.lplatch := rfl
@[simp] theorem Qed.setEnc_encs (q : Qed) (e : Nat) (x : Encoder) : (q.setEnc e x).encs = q.encs.set e x := rfl

/-! ### `Qed.load` -/

@[simp] theorem Qed.load_inv (q : Qed) (v : Planes) (now : Time) : (q.load v now).inv = q.inv := rfl
@[simp] theorem Qed.load_half (q : Qed) (v : Planes) (now : Time) : (q.load v now).half = q.half := rfl
@[simp] theorem Qed.load_modewrap (q : Qed) (v : Planes) (now : Time) : (q.load v now).modewrap = q.modewrap := rfl
@[simp] theorem Qed.load_lasttick (q : Qed) (v : Planes) (now : Time) : (q.load v now).lasttick = now := rfl
@[simp] theorem Qed.load_prev (q : Qed) (v : Planes) (now : Time) : (q.load v now).prev = v := rfl
@[simp] theorem Qed.load_chgup (q : Qed) (v : Planes) (now : Time) : (q.load v now).chgup = 0#8 := rfl
@[simp] theorem Qed.load_chgdn (q : Qed) (v : Planes) (now : Time) : (q.load v now).chgdn = 0#8 := rfl
@[simp] theorem Qed.load_chgqup (q : Qed) (v : Planes) (now : Time) : (q.load v now).chgqup = 0#8 := rfl
@[simp] theorem Qed.load_chgqdn (q : Qed) (v : Planes) (now : Time) : (q.load v now).chgqdn = 0#8 := rfl
@[simp] theorem Qed.load_cntchg (q : Qed) (v : Planes) (now : Time) : (q.load v now).cntchg = 0#8 := rfl
@[simp] theorem Qed.load_modechg (q : Qed) (v : Planes) (now : Time) : (q.load v now).modechg = 0#8 := rfl
@[simp] theorem Qed.load_swcur (q : Qed) (v : Planes) (now : Time) : (q.load v now).swcur = v.s := rfl
@[simp] theorem Qed.load_swpend (q : Qed) (v : Planes) (now : Time) : (q.load v now).swpend = v.s := rfl
@[simp] theorem Qed.load_swt0 (q : Qed) (v : Planes) (now : Time) : (q.load v now).swt0 = now := rfl
@[simp] theorem Qed.load_swrun (q : Qed) (v : Planes) (now : Time) : (q.load v now).swrun = false := rfl
@[simp] theorem Qed.load_patt0 (q : Qed) (v : Planes) (now : Time) : (q.load v now).patt0 = now := rfl
@[simp] theorem Qed.load_qlparm (q : Qed) (v : Planes) (now : Time) : (q.load v now).qlparm = true := rfl
@[simp] theorem Qed.load_lplatch (q : Qed) (v : Planes) (now : Time) : (q.load v now).lplatch = 0#8 := rfl
@[simp] theorem Qed.load_encs (q : Qed) (v : Planes) (now : Time) : (q.load v now).encs = q.encs.map Encoder.load := rfl

/-! ### `Encoder.load` -/

@[simp] theorem Encoder.load_nmodes (x : Encoder) : (x.load).nmodes = x.nmodes := rfl
@[simp] theorem Encoder.load_count (x : Encoder) : (x.load).count = 0#32 := rfl
@[simp] theorem Encoder.load_trigt (x : Encoder) : (x.load).trigt = x.trigt := rfl
@[simp] theorem Encoder.load_trigv (x : Encoder) : (x.load).trigv = false := rfl
@[simp] theorem Encoder.load_mode (x : Encoder) : (x.load).mode = initialMode x.nmodes := rfl

/-! ### `startPoll` -/

@[simp] theorem startPoll_eds (p : Params) (d : Eds) : (startPoll p d).eds = d := rfl
@[simp] theorem startPoll_dn (p : Params) (d : Eds) : (startPoll p d).dn = List.replicate p.nb 0#8 := rfl
@[simp] theorem startPoll_up (p : Params) (d : Eds) : (startPoll p d).up = List.replicate p.nb 0#8 := rfl
@[simp] theorem startPoll_rpt (p : Params) (d : Eds) : (startPoll p d).rpt = List.replicate p.nb 0#8 := rfl
@[simp] theorem startPoll_lng (p : Params) (d : Eds) : (startPoll p d).lng = List.replicate p.nb 0#8 := rfl

/-! ### `commitVector` -/

@[simp] theorem commitVector_dn (new : List Byte) (now : Time) (w : Poll) :
    (commitVector new now w).dn = List.zipWith downEdges new w.eds.cur := rfl
@[simp] theorem commitVector_up (new : List Byte) (now : Time) (w : Poll) :
    (commitVector new now w).up = List.zipWith upEdges new w.eds.cur := rfl
@[simp] theorem commitVector_rpt (new : List Byte) (now : Time) (w : Poll) : (commitVector new now w).rpt = w.rpt := rfl
@[simp] theorem commitVector_lng (new : List Byte) (now : Time) (w : Poll) : (commitVector new now w).lng = w.lng := rfl

@[simp] theorem commitVector_eds_debounce (new : List Byte) (now : Time) (w : Poll) :
    (commitVector new now w).eds.debounce = w.eds.debounce := rfl
@[simp] theorem commitVector_eds_repdly (new : List Byte) (now : Time) (w : Poll) :
    (commitVector new now w).eds.repdly = w.eds.repdly := rfl
@[simp] theorem commitVector_eds_repint (new : List Byte) (now : Time) (w : Poll) :
    (commitVector new now w).eds.repint = w.eds.repint := rfl
@[simp] theorem commitVector_eds_lpdly (new : List Byte) (now : Time) (w : Poll) :
    (commitVector new now w).eds.lpdly = w.eds.lpdly := rfl
@[simp] theorem commitVector_eds_cur (new : List Byte) (now : Time) (w : Poll) :
    (commitVector new now w).eds.cur = new := rfl
@[simp] theorem commitVector_eds_pend (new : List Byte) (now : Time) (w : Poll) :
    (commitVector new now w).eds.pend = w.eds.pend := rfl
@[simp] theorem commitVector_eds_debt0 (new : List Byte) (now : Time) (w : Poll) :
    (commitVector new now w).eds.debt0 = w.eds.debt0 := rfl
@[simp] theorem commitVector_eds_debrun (new : List Byte) (now : Time) (w : Poll) :
    (commitVector new now w).eds.debrun = false := rfl
@[simp] theorem commitVector_eds_anchor (new : List Byte) (now : Time) (w : Poll) :
    (commitVector new now w).eds.anchor = now := rfl
@[simp] theorem commitVector_eds_repph (new : List Byte) (now : Time) (w : Poll) :
    (commitVector new now w).eds.repph = false := rfl
@[simp] theorem commitVector_eds_rept0 (new : List Byte) (now : Time) (w : Poll) :
    (commitVector new now w).eds.rept0 = w.eds.rept0 := rfl
@[simp] theorem commitVector_eds_lparm (new : List Byte) (now : Time) (w : Poll) :
    (commitVector new now w).eds.lparm = true := rfl
@[simp] theorem commitVector_eds_lpdone (new : List Byte) (now : Time) (w : Poll) :
    (commitVector new now w).eds.lpdone = List.zipWith clearReleased w.eds.lpdone (List.zipWith upEdges new w.eds.cur) := rfl
@[simp] theorem commitVector_eds_nbind (new : List Byte) (now : Time) (w : Poll) :
    (commitVector new now w).eds.nbind = w.eds.nbind := rfl
@[simp] theorem commitVector_eds_slots (new : List Byte) (now : Time) (w : Poll) :
    (commitVector new now w).eds.slots = w.eds.slots := rfl
@[simp] theorem commitVector_eds_cursor (new : List Byte) (now : Time) (w : Poll) :
    (commitVector new now w).eds.cursor = w.eds.cursor := rfl

/-! ### `tickRotate` -/

@[simp] theorem tickRotate_inv (p : Params) (v : Planes) (now : Time) (w : Tick) :
    (tickRotate p v now w).qed.inv = w.qed.inv := rfl
@[simp] theorem tickRotate_half (p : Params) (v : Planes) (now : Time) (w : Tick) :
    (tickRotate p v now w).qed.half = w.qed.half := rfl
@[simp] theorem tickRotate_modewrap (p : Params) (v : Planes) (now : Time) (w : Tick) :
    (tickRotate p v now w).qed.modewrap = w.qed.modewrap := rfl
@[simp] theorem tickRotate_lasttick (p : Params) (v : Planes) (now : Time) (w : Tick) :
    (tickRotate p v now w).qed.lasttick = w.qed.lasttick := rfl
@[simp] theorem tickRotate_prev (p : Params) (v : Planes) (now : Time) (w : Tick) :
    (tickRotate p v now w).qed.prev = v := rfl
@[simp] theorem tickRotate_chgup (p : Params) (v : Planes) (now : Time) (w : Tick) :
    (tickRotate p v now w).qed.chgup = w.qed.chgup ||| (pulsesOf p v w.qed).1 := rfl
@[simp] theorem tickRotate_chgdn (p : Params) (v : Planes) (now : Time) (w : Tick) :
    (tickRotate p v now w).qed.chgdn = w.qed.chgdn ||| (pulsesOf p v w.qed).2 := rfl
@[simp] theorem tickRotate_chgqup (p : Params) (v : Planes) (now : Time) (w : Tick) :
    (tickRotate p v now w).qed.chgqup =
      w.qed.chgqup ||| ((pulsesOf p v w.qed).1 &&& quickMask p now w.qed.encs) := rfl
@[simp] theorem tickRotate_chgqdn (p : Params) (v : Planes) (now : Time) (w : Tick) :
    (tickRotate p v now w).qed.chgqdn =
      w.qed.chgqdn ||| ((pulsesOf p v w.qed).2 &&& quickMask p now w.qed.encs) := rfl
@[simp] theorem tickRotate_cntchg (p : Params) (v : Planes) (now : Time) (w : Tick) :
    (tickRotate p v now w).qed.cntchg = w.qed.cntchg ||| (pulsesOf p v w.qed).1 ||| (pulsesOf p v w.qed).2 := rfl
@[simp] theorem tickRotate_modechg (p : Params) (v : Planes) (now : Time) (w : Tick) :
    (tickRotate p v now w).qed.modechg = w.qed.modechg := rfl
@[simp] theorem tickRotate_swcur (p : Params) (v : Planes) (now : Time) (w : Tick) :
    (tickRotate p v now w).qed.swcur = w.qed.swcur := rfl
@[simp] theorem tickRotate_swpend (p : Params) (v : Planes) (now : Time) (w : Tick) :
    (tickRotate p v now w).qed.swpend = w.qed.swpend := rfl
@[simp] theorem tickRotate_swt0 (p : Params) (v : Planes) (now : Time) (w : Tick) :
    (tickRotate p v now w).qed.swt0 = w.qed.swt0 := rfl
@[simp] theorem tickRotate_swrun (p : Params) (v : Planes) (now : Time) (w : Tick) :
    (tickRotate p v now w).qed.swrun = w.qed.swrun := rfl
@[simp] theorem tickRotate_patt0 (p : Params) (v : Planes) (now : Time) (w : Tick) :
    (tickRotate p v now w).qed.patt0 = w.qed.patt0 := rfl
@[simp] theorem tickRotate_qlparm (p : Params) (v : Planes) (now : Time) (w : Tick) :
    (tickRotate p v now w).qed.qlparm = w.qed.qlparm := rfl
@[simp] theorem tickRotate_lplatch (p : Params) (v : Planes) (now : Time) (w : Tick) :
    (tickRotate p v now w).qed.lplatch = w.qed.lplatch := rfl
@[simp] theorem tickRotate_encs (p : Params) (v : Planes) (now : Time) (w : Tick) :
    (tickRotate p v now w).qed.encs =
      w.qed.encs.mapIdx fun e x => rotateEncoder p now ((pulsesOf p v w.qed).1.getLsbD e) ((pulsesOf p v w.qed).2.getLsbD e) x := rfl
@[simp] theorem tickRotate_ev_up (p : Params) (v : Planes) (now : Time) (w : Tick) :
    (tickRotate p v now w).ev.up = (pulsesOf p v w.qed).1 := rfl
@[simp] theorem tickRotate_ev_dn (p : Params) (v : Planes) (now : Time) (w : Tick) :
    (tickRotate p v now w).ev.dn = (pulsesOf p v w.qed).2 := rfl
@[simp] theorem tickRotate_ev_qup (p : Params) (v : Planes) (now : Time) (w : Tick) :
    (tickRotate p v now w).ev.qup = (pulsesOf p v w.qed).1 &&& quickMask p now w.qed.encs := rfl
@[simp] theorem tickRotate_ev_qdn (p : Params) (v : Planes) (now : Time) (w : Tick) :
    (tickRotate p v now w).ev.qdn = (pulsesOf p v w.qed).2 &&& quickMask p now w.qed.encs := rfl
@[simp] theorem tickRotate_ev_act (p : Params) (v : Planes) (now : Time) (w : Tick) :
    (tickRotate p v now w).ev.act = w.ev.act := rfl
@[simp] theorem tickRotate_ev_deact (p : Params) (v : Planes) (now : Time) (w : Tick) :
    (tickRotate p v now w).ev.deact = w.ev.deact := rfl
@[simp] theorem tickRotate_ev_tog (p : Params) (v : Planes) (now : Time) (w : Tick) :
    (tickRotate p v now w).ev.tog = w.ev.tog := rfl
@[simp] theorem tickRotate_ev_shortp (p : Params) (v : Planes) (now : Time) (w : Tick) :
    (tickRotate p v now w).ev.shortp = w.ev.shortp := rfl
@[simp] theorem tickRotate_ev_longp (p : Params) (v : Planes) (now : Time) (w : Tick) :
    (tickRotate p v now w).ev.longp = w.ev.longp := rfl

/-! ### `commitSwitches` -/

@[simp] theorem commitSwitches_inv (pat : Byte) (now : Time) (w : Tick) :
    (commitSwitches pat now w).qed.inv = w.qed.inv := rfl
@[simp] theorem commitSwitches_half (pat : Byte) (now : Time) (w : Tick) :
    (commitSwitches pat now w).qed.half = w.qed.half := rfl
@[simp] theorem commitSwitches_modewrap (pat : Byte) (now : Time) (w : Tick) :
    (commitSwitches pat now w).qed.modewrap = w.qed.modewrap := rfl
@[simp] theorem commitSwitches_lasttick (pat : Byte) (now : Time) (w : Tick) :
    (commitSwitches pat now w).qed.lasttick = w.qed.lasttick := rfl
@[simp] theorem commitSwitches_prev (pat : Byte) (now : Time) (w : Tick) :
    (commitSwitches pat now w).qed.prev = w.qed.prev := rfl
@[simp] theorem commitSwitches_chgup (pat : Byte) (now : Time) (w : Tick) :
    (commitSwitches pat now w).qed.chgup = w.qed.chgup := rfl
@[simp] theorem commitSwitches_chgdn (pat : Byte) (now : Time) (w : Tick) :
    (commitSwitches pat now w).qed.chgdn = w.qed.chgdn := rfl
@[simp] theorem commitSwitches_chgqup (pat : Byte) (now : Time) (w : Tick) :
    (commitSwitches pat now w).qed.chgqup = w.qed.chgqup := rfl
@[simp] theorem commitSwitches_chgqdn (pat : Byte) (now : Time) (w : Tick) :
    (commitSwitches pat now w).qed.chgqdn = w.qed.chgqdn := rfl
@[simp] theorem commitSwitches_cntchg (pat : Byte) (now : Time) (w : Tick) :
    (commitSwitches pat now w).qed.cntchg = w.qed.cntchg := rfl
@[simp] theorem commitSwitches_modechg (pat : Byte) (now : Time) (w : Tick) :
    (commitSwitches pat now w).qed.modechg = w.qed.modechg := rfl
@[simp] theorem commitSwitches_swcur (pat : Byte) (now : Time) (w : Tick) :
    (commitSwitches pat now w).qed.swcur = pat := rfl
@[simp] theorem commitSwitches_swpend (pat : Byte) (now : Time) (w : Tick) :
    (commitSwitches pat now w).qed.swpend = w.qed.swpend := rfl
@[simp] theorem commitSwitches_swt0 (pat : Byte) (now : Time) (w : Tick) :
    (commitSwitches pat now w).qed.swt0 = w.qed.swt0 := rfl
@[simp] theorem commitSwitches_swrun (pat : Byte) (now : Time) (w : Tick) :
    (commitSwitches pat now w).qed.swrun = false := rfl
@[simp] theorem commitSwitches_patt0 (pat : Byte) (now : Time) (w : Tick) :
    (commitSwitches pat now w).qed.patt0 = now := rfl
@[simp] theorem commitSwitches_qlparm (pat : Byte) (now : Time) (w : Tick) :
    (commitSwitches pat now w).qed.qlparm = true := rfl
@[simp] theorem commitSwitches_lplatch (pat : Byte) (now : Time) (w : Tick) :
    (commitSwitches pat now w).qed.lplatch = w.qed.lplatch &&& pat := rfl
@[simp] theorem commitSwitches_encs (pat : Byte) (now : Time) (w : Tick) :
    (commitSwitches pat now w).qed.encs = w.qed.encs := rfl
@[simp] theorem commitSwitches_ev_up (pat : Byte) (now : Time) (w : Tick) :
    (commitSwitches pat now w).ev.up = w.ev.up := rfl
@[simp] theorem commitSwitches_ev_dn (pat : Byte) (now : Time) (w : Tick) :
    (commitSwitches pat now w).ev.dn = w.ev.dn := rfl
@[simp] theorem commitSwitches_ev_qup (pat : Byte) (now : Time) (w : Tick) :
    (commitSwitches pat now w).ev.qup = w.ev.qup := rfl
@[simp] theorem commitSwitches_ev_qdn (pat : Byte) (now : Time) (w : Tick) :
    (commitSwitches pat now w).ev.qdn = w.ev.qdn := rfl
@[simp] theorem commitSwitches_ev_act (pat : Byte) (now : Time) (w : Tick) :
    (commitSwitches pat now w).ev.act = activated pat w.qed.swcur := rfl
@[simp] theorem commitSwitches_ev_deact (pat : Byte) (now : Time) (w : Tick) :
    (commitSwitches pat now w).ev.deact = deactivated pat w.qed.swcur := rfl
@[simp] theorem commitSwitches_ev_tog (pat : Byte) (now : Time) (w : Tick) :
    (commitSwitches pat now w).ev.tog = toggled pat w.qed.swcur := rfl
@[simp] theorem commitSwitches_ev_shortp (pat : Byte) (now : Time) (w : Tick) :
    (commitSwitches pat now w).ev.shortp = shortPresses pat w.qed.swcur w.qed.lplatch := rfl
@[simp] theorem commitSwitches_ev_longp (pat : Byte) (now : Time) (w : Tick) :
    (commitSwitches pat now w).ev.longp = w.ev.longp := rfl

/-! ### `tickModes` -/

@[simp] theorem tickModes_inv (w : Tick) : (tickModes w).qed.inv = w.qed.inv := rfl
@[simp] theorem tickModes_half (w : Tick) : (tickModes w).qed.half = w.qed.half := rfl
@[simp] theorem tickModes_modewrap (w : Tick) : (tickModes w).qed.modewrap = w.qed.modewrap := rfl
@[simp] theorem tickModes_lasttick (w : Tick) : (tickModes w).qed.lasttick = w.qed.lasttick := rfl
@[simp] theorem tickModes_prev (w : Tick) : (tickModes w).qed.prev = w.qed.prev := rfl
@[simp] theorem tickModes_chgup (w : Tick) : (tickModes w).qed.chgup = w.qed.chgup := rfl
@[simp] theorem tickModes_chgdn (w : Tick) : (tickModes w).qed.chgdn = w.qed.chgdn := rfl
@[simp] theorem tickModes_chgqup (w : Tick) : (tickModes w).qed.chgqup = w.qed.chgqup := rfl
@[simp] theorem tickModes_chgqdn (w : Tick) : (tickModes w).qed.chgqdn = w.qed.chgqdn := rfl
@[simp] theorem tickModes_cntchg (w : Tick) : (tickModes w).qed.cntchg = w.qed.cntchg := rfl
@[simp] theorem tickModes_modechg (w : Tick) :
    (tickModes w).qed.modechg =
      w.qed.modechg ||| maskOf (w.qed.encs.mapIdx fun e x => modeAfter w.qed w.ev e x != x.mode) := rfl
@[simp] theorem tickModes_swcur (w : Tick) : (tickModes w).qed.swcur = w.qed.swcur := rfl
@[simp] theorem tickModes_swpend (w : Tick) : (tickModes w).qed.swpend = w.qed.swpend := rfl
@[simp] theorem tickModes_swt0 (w : Tick) : (tickModes w).qed.swt0 = w.qed.swt0 := rfl
@[simp] theorem tickModes_swrun (w : Tick) : (tickModes w).qed.swrun = w.qed.swrun := rfl
@[simp] theorem tickModes_patt0 (w : Tick) : (tickModes w).qed.patt0 = w.qed.patt0 := rfl
@[simp] theorem tickModes_qlparm (w : Tick) : (tickModes w).qed.qlparm = w.qed.qlparm := rfl
@[simp] theorem tickModes_lplatch (w : Tick) : (tickModes w).qed.lplatch = w.qed.lplatch := rfl
@[simp] theorem tickModes_encs (w : Tick) :
    (tickModes w).qed.encs = w.qed.encs.mapIdx fun e x => { x with mode := modeAfter w.qed w.ev e x } := rfl
@[simp] theorem tickModes_ev_up (w : Tick) : (tickModes w).ev.up = w.ev.up := rfl
@[simp] theorem tickModes_ev_dn (w : Tick) : (tickModes w).ev.dn = w.ev.dn := rfl
@[simp] theorem tickModes_ev_qup (w : Tick) : (tickModes w).ev.qup = w.ev.qup := rfl
@[simp] theorem tickModes_ev_qdn (w : Tick) : (tickModes w).ev.qdn = w.ev.qdn := rfl
@[simp] theorem tickModes_ev_act (w : Tick) : (tickModes w).ev.act = w.ev.act := rfl
@[simp] theorem tickModes_ev_deact (w : Tick) : (tickModes w).ev.deact = w.ev.deact := rfl
@[simp] theorem tickModes_ev_tog (w : Tick) : (tickModes w).ev.tog = w.ev.tog := rfl
@[simp] theorem tickModes_ev_shortp (w : Tick) : (tickModes w).ev.shortp = w.ev.shortp := rfl
@[simp] theorem tickModes_ev_longp (w : Tick) : (tickModes w).ev.longp = w.ev.longp := rfl

end Sys2Proof.Machine
end

