-- ==== Sys2Proof/Laws/Ops.lean ====
section
/-! SUPPORT. For each shared operation of Machine/Ops.lean, what it can do, said once. -/

namespace Sys2Proof.Machine

/-! ## Responses -/

theorem respond_eq (s : State) (r : Response) : respond s r = .next { s with responses := s.responses ++ [r] } := rfl

theorem respond_next_iff (s t : State) (r : Response) :
    respond s r = .next t ↔ t = { s with responses := s.responses ++ [r] } := by
  simp [respond, eq_comm]

/-! ## Register files -/

theorem filter_setFilter_self (s : State) (f : Nat) (x : Filter) (h : f < s.dbf.length) :
    (s.setFilter f x).filter f = x := by
  simp [State.filter, List.getD, h]

theorem filter_setFilter_ne (s : State) (f g : Nat) (x : Filter) (h : g ≠ f) :
    (s.setFilter f x).filter g = s.filter g := by
  simp [State.filter, List.getD, List.getElem?_set_ne (Ne.symm h)]

/-- Every filter after a write of one is the written one or an old one. -/
theorem mem_setFilter (s : State) (f : Nat) (x y : Filter) (h : y ∈ (s.setFilter f x).dbf) : y = x ∨ y ∈ s.dbf := by
  rcases List.mem_or_eq_of_mem_set h with h | h
  · exact .inr h
  · exact .inl h

/-- An instance that exists is one of the list. -/
theorem filter_mem (s : State) (f : Nat) (h : f < s.dbf.length) : s.filter f ∈ s.dbf := by
  simp [State.filter, List.getD, h]

theorem enc_setEnc_self (q : Qed) (e : Nat) (x : Encoder) (h : e < q.encs.length) : (q.setEnc e x).enc e = x := by
  simp [Qed.enc, List.getD, h]

theorem enc_setEnc_ne (q : Qed) (e i : Nat) (x : Encoder) (h : i ≠ e) : (q.setEnc e x).enc i = q.enc i := by
  simp [Qed.enc, List.getD, List.getElem?_set_ne (Ne.symm h)]

theorem enc_mem (q : Qed) (e : Nat) (h : e < q.encs.length) : q.enc e ∈ q.encs := by
  simp [Qed.enc, List.getD, h]

theorem slot_append_self (d : Eds) (t : Slot) (h : d.nbind.toNat < d.slots.length) :
    (d.append t).slot d.nbind.toNat = t := by
  simp [Eds.slot, List.getD, h]

theorem slot_append_ne (d : Eds) (t : Slot) (j : Nat) (h : j ≠ d.nbind.toNat) : (d.append t).slot j = d.slot j := by
  simp [Eds.slot, List.getD, List.getElem?_set_ne (Ne.symm h)]

/-! ## Reset -/

/-- A reset of the block leaves the reset state, with the model's record of the command port. -/
theorem resetBlock_eq (s : State) :
    s.resetBlock = { State.resetWith s.params with ports := s.ports, pending := s.pending, responses := s.responses } := rfl

/-! ## The debounce technique -/

/-- The timer after the compare: it is as it was if it runs with this value as its candidate, else it starts now. -/
theorem restartOnChange_cases {α : Type} [DecidableEq α] (now : Time) (raw : α) (t : DebounceTimer α) :
    (t.run = true ∧ raw = t.pend ∧ restartOnChange now raw t = t) ∨
    ((t.run = false ∨ raw ≠ t.pend) ∧ restartOnChange now raw t = ⟨raw, now, true⟩) := by
  unfold restartOnChange
  by_cases h : t.run = false ∨ raw ≠ t.pend
  · exact .inr ⟨h, by simp [h]⟩
  · refine .inl ⟨?_, ?_, by simp [h]⟩
    · simpa using fun h' => h (.inl h')
    · simpa using fun h' => h (.inr h')

@[simp] theorem restartOnChange_pend {α : Type} [DecidableEq α] (now : Time) (raw : α) (t : DebounceTimer α) :
    (restartOnChange now raw t).pend = raw := by
  rcases restartOnChange_cases now raw t with ⟨_, h, e⟩ | ⟨_, e⟩
  · rw [e, h]
  · rw [e]

@[simp] theorem restartOnChange_run {α : Type} [DecidableEq α] (now : Time) (raw : α) (t : DebounceTimer α) :
    (restartOnChange now raw t).run = true := by
  rcases restartOnChange_cases now raw t with ⟨h, _, e⟩ | ⟨_, e⟩
  · rw [e, h]
  · rw [e]

/-- One evaluation of the debounce timer: an equal value stops it; a differing value makes it the candidate, and is
committed exactly if the window has elapsed. -/
theorem debounce_cases {α : Type} [DecidableEq α] (p : Params) (window : Nat) (now : Time) (cur raw : α)
    (t : DebounceTimer α) :
    (raw = cur ∧ debounce p window now cur raw t = ({ t with run := false }, false)) ∨
    (raw ≠ cur ∧ window ≤ elapsed p now (restartOnChange now raw t).t0 ∧
      debounce p window now cur raw t = (⟨raw, (restartOnChange now raw t).t0, false⟩, true)) ∨
    (raw ≠ cur ∧ elapsed p now (restartOnChange now raw t).t0 < window ∧
      debounce p window now cur raw t = (⟨raw, (restartOnChange now raw t).t0, true⟩, false)) := by
  unfold debounce
  have hp := restartOnChange_pend now raw t
  have hr := restartOnChange_run now raw t
  generalize restartOnChange now raw t = u at hp hr
  by_cases h : raw = cur
  · exact .inl ⟨h, by simp [h]⟩
  · rcases Nat.lt_or_ge (elapsed p now u.t0) window with h' | h'
    · refine .inr (.inr ⟨h, h', ?_⟩)
      rw [if_neg h]; simp only [expired, Nat.not_le.mpr h', decide_false]
      obtain ⟨pend, t0, run⟩ := u; subst hp hr; rfl
    · refine .inr (.inl ⟨h, h', ?_⟩)
      rw [if_neg h]; simp only [expired, h', decide_true]; subst hp; rfl

/-! ## The register space -/

/-- The numbers of the register space: a number is the one of a register that is implemented, or it is reserved. -/
theorem regOf_cases (p : Params) (k : Byte) (h : p.Legal) :
    (∃ f < p.nf, k.toNat = 0x40 + 4 * f ∧ regOf p k = some (.policy f)) ∨
    (∃ f < p.nf, k.toNat = 0x41 + 4 * f ∧ regOf p k = some (.window f)) ∨
    (∃ f < p.nf, k.toNat = 0x42 + 4 * f ∧ regOf p k = some (.out f)) ∨
    (k.toNat = 0x80 ∧ regOf p k = some .debounce) ∨
    (k.toNat = 0x81 ∧ regOf p k = some .repdly) ∨
    (k.toNat = 0x82 ∧ regOf p k = some .repint) ∨
    (k.toNat = 0x83 ∧ regOf p k = some .lpdly) ∨
    (k.toNat = 0x84 ∧ regOf p k = some .nbind) ∨
    (∃ b < p.nb, k.toNat = 0x90 + b ∧ regOf p k = some (.cur b)) ∨
    (k.toNat = 0xC0 ∧ regOf p k = some .inv) ∨
    (k.toNat = 0xC1 ∧ regOf p k = some .half) ∨
    (k.toNat = 0xC2 ∧ regOf p k = some .modewrap) ∨
    (k.toNat = 0xC3 ∧ regOf p k = some .swcur) ∨
    (k.toNat = 0xC4 ∧ regOf p k = some .lplatch) ∨
    (∃ e < p.ne, k.toNat = 0xC8 + e ∧ regOf p k = some (.nmodes e)) ∨
    ((k.toNat < 0x40 ∨ (∃ f < 16, k.toNat = 0x43 + 4 * f) ∨ (0x40 + 4 * p.nf ≤ k.toNat ∧ k.toNat < 0x80) ∨
      (0x85 ≤ k.toNat ∧ k.toNat ≤ 0x8F) ∨ (0x90 + p.nb ≤ k.toNat ∧ k.toNat ≤ 0xBF) ∨
      (0xC5 ≤ k.toNat ∧ k.toNat ≤ 0xC7) ∨ 0xC8 + p.ne ≤ k.toNat) ∧ regOf p k = none) := by
  obtain ⟨-, ⟨hf0, hf⟩, -, -, ⟨hb0, hb⟩, -, ⟨he0, he⟩, -⟩ := h
  have hk := k.isLt
  generalize hr : regOf p k = r
  unfold regOf at hr
  generalize k.toNat = n at hk hr ⊢
  split at hr
  · unfold dbfReg at hr
    split at hr
    · next h1 =>
      obtain ⟨f, off, hn, hoff⟩ : ∃ f off, n = 0x40 + 4 * f + off ∧ off < 4 :=
        ⟨(n - 0x40) / 4, (n - 0x40) % 4, by omega, by omega⟩
      have e1 : (n - 0x40) / 4 = f := by omega
      have e2 : (n - 0x40) % 4 = off := by omega
      rw [e1, e2] at hr
      have hff : f < p.nf := by omega
      rcases (by omega : off = 0 ∨ off = 1 ∨ off = 2 ∨ off = 3) with rfl | rfl | rfl | rfl
      · exact .inl ⟨f, hff, by omega, hr.symm⟩
      · exact .inr (.inl ⟨f, hff, by omega, hr.symm⟩)
      · exact .inr (.inr (.inl ⟨f, hff, by omega, hr.symm⟩))
      · iterate 15 apply Or.inr
        exact ⟨.inr (.inl ⟨f, by omega, by omega⟩), hr.symm⟩
    · iterate 15 apply Or.inr
      exact ⟨by omega, hr.symm⟩
  · split at hr
    · unfold edsReg at hr
      repeat' split at hr
      all_goals subst hr
      · iterate 3 apply Or.inr
        exact .inl ⟨by omega, rfl⟩
      · iterate 4 apply Or.inr
        exact .inl ⟨by omega, rfl⟩
      · iterate 5 apply Or.inr
        exact .inl ⟨by omega, rfl⟩
      · iterate 6 apply Or.inr
        exact .inl ⟨by omega, rfl⟩
      · iterate 7 apply Or.inr
        exact .inl ⟨by omega, rfl⟩
      · iterate 8 apply Or.inr
        exact .inl ⟨n - 0x90, by omega, by omega, rfl⟩
      · iterate 15 apply Or.inr
        exact ⟨by omega, rfl⟩
    · unfold qedReg at hr
      repeat' split at hr
      all_goals subst hr
      · iterate 9 apply Or.inr
        exact .inl ⟨by omega, rfl⟩
      · iterate 10 apply Or.inr
        exact .inl ⟨by omega, rfl⟩
      · iterate 11 apply Or.inr
        exact .inl ⟨by omega, rfl⟩
      · iterate 12 apply Or.inr
        exact .inl ⟨by omega, rfl⟩
      · iterate 13 apply Or.inr
        exact .inl ⟨by omega, rfl⟩
      · iterate 14 apply Or.inr
        exact .inl ⟨n - 0xC8, by omega, by omega, rfl⟩
      · iterate 15 apply Or.inr
        exact ⟨by omega, rfl⟩

/-- The policy that a written value selects: codes 0, 1, 2, and none above (R113). -/
theorem policyOf_cases (v : Word) :
    (v.toNat = 0 ∧ policyOf v = some .holder) ∨ (v.toNat = 1 ∧ policyOf v = some .delayer) ∨
    (v.toNat = 2 ∧ policyOf v = some .blanker) ∨ (2 < v.toNat ∧ policyOf v = none) := by
  unfold policyOf
  split
  · exact .inl ⟨rfl, rfl⟩
  · exact .inr (.inl ⟨rfl, rfl⟩)
  · exact .inr (.inr (.inl ⟨rfl, rfl⟩))
  · rename_i h0 h1 h2
    refine .inr (.inr (.inr ⟨?_, rfl⟩))
    simp only [imp_false, BitVec.toNat_eq, BitVec.toNat_ofNat] at h0 h1 h2
    omega

/-- A clamped value fits the register it is stored in (R113). -/
theorem clampTo_toNat (n m : Nat) (h : n ≤ m) (v : Word) :
    (BitVec.ofNat m (clampTo n v)).toNat = min v.toNat (2 ^ n - 1) := by
  have h1 : 2 ^ n ≤ 2 ^ m := Nat.pow_le_pow_right (by decide) h
  have h2 := Nat.two_pow_pos n
  have h3 : clampTo n v < 2 ^ m := by simp only [clampTo]; omega
  rw [BitVec.toNat_ofNat, Nat.mod_eq_of_lt h3]; rfl

/-- The count field of a mode byte. -/
theorem modeCount_toNat (m : Byte) : (m.extractLsb' 0 7).toNat = m.toNat % 128 := by simp

end Sys2Proof.Machine
end

