-- ==== Sys2Proof/Laws/Assembler.lean ====
section
/-! SUPPORT. What the register names of the assembler stand for, and what may stand behind a comma. -/

namespace Sys2Proof.Machine

theorem numberAt_of_lt {base stride count i : Nat} (h : i < count) :
    numberAt base stride count i = some (base + stride * i) := if_pos h

theorem numberAt_of_le {base stride count i : Nat} (h : count ≤ i) : numberAt base stride count i = none :=
  if_neg (Nat.not_lt.mpr h)

/-- The assembler's number of a register is the number under which the block has it: whatever `RD` and `WR` reach by a
number, the name reaches too. -/
theorem regNumber_of_regOf (p : Params) (k : Byte) (r : Reg) (hp : p.Legal) (h : regOf p k = some r) :
    regNumber r = some k.toNat := by
  have ⟨_, ⟨_, hf⟩, _, _, ⟨_, hb⟩, _, ⟨_, he⟩, _⟩ := hp
  rcases regOf_cases p k hp with ⟨f, hl, e, e'⟩ | ⟨f, hl, e, e'⟩ | ⟨f, hl, e, e'⟩ | ⟨e, e'⟩ | ⟨e, e'⟩ | ⟨e, e'⟩ | ⟨e, e'⟩ |
    ⟨e, e'⟩ | ⟨b, hl, e, e'⟩ | ⟨e, e'⟩ | ⟨e, e'⟩ | ⟨e, e'⟩ | ⟨e, e'⟩ | ⟨e, e'⟩ | ⟨i, hl, e, e'⟩ | ⟨-, e'⟩
  all_goals rw [e'] at h; cases h
  all_goals simp (disch := omega) only [regNumber, numberAt_of_lt, Nat.one_mul, e]

/-- A row of operands that may stand behind a comma is the row itself, and its first operand is a port value. -/
theorem portsFirst_eq_some {os xs : List Operand} (h : portsFirst os = some xs) :
    xs = os ∧ ∃ o rest, os = o :: rest ∧ o.isPort = true := by
  unfold portsFirst at h
  split at h
  · next hp =>
    cases os with
    | nil => cases hp
    | cons o rest => exact ⟨(Option.some.inj h).symm, o, rest, rfl, Option.some.inj hp⟩
  · cases h

end Sys2Proof.Machine
end

