-- ==== Sys2Proof/Laws/Dbf.lean ====
section
/-! SUPPORT. What the steps of the three filter policies can do, case by case. -/

namespace Sys2Proof.Machine

theorem holderTimer_cases (inp : Word) (now : Time) (x : Filter) :
    (x.run = true ∧ inp = x.cand ∧ holderTimer inp now x = x) ∨
    ((x.run = false ∨ inp ≠ x.cand) ∧ holderTimer inp now x = { x with cand := inp, t0 := now, run := true }) := by
  unfold holderTimer
  by_cases h : x.run = false ∨ inp ≠ x.cand
  · exact .inr ⟨h, if_pos h⟩
  · refine .inl ⟨?_, ?_, if_neg h⟩
    · simpa using fun h' => h (.inl h')
    · simpa using fun h' => h (.inr h')

theorem commitExpired_cases (p : Params) (now : Time) (x : Filter) :
    (x.window.toNat ≤ elapsed p now x.t0 ∧ commitExpired p now x = { x with out := x.cand, run := false }) ∨
    (elapsed p now x.t0 < x.window.toNat ∧ commitExpired p now x = x) := by
  unfold commitExpired
  rcases Nat.lt_or_ge (elapsed p now x.t0) x.window.toNat with h | h
  · exact .inr ⟨h, if_neg (by simpa [expired] using h)⟩
  · exact .inl ⟨h, if_pos (by simpa [expired] using h)⟩

theorem delayerTimer_cases (inp : Word) (now : Time) (x : Filter) :
    (inp = x.cand ∧ delayerTimer inp now x = x) ∨
    (inp ≠ x.cand ∧ delayerTimer inp now x = { x with cand := inp, t0 := now, run := true }) := by
  unfold delayerTimer
  by_cases h : inp = x.cand
  · exact .inl ⟨h, if_neg (by simpa using h)⟩
  · exact .inr ⟨h, if_pos h⟩

/-- A blanker update: the running interval hides the input, or the input equals the output and any interval is over, or
the input becomes the output and a new interval starts. -/
theorem blankerStep_cases (p : Params) (inp : Word) (now : Time) (x : Filter) :
    (x.run = true ∧ elapsed p now x.t0 < x.window.toNat ∧ blankerStep p inp now x = x) ∨
    ((x.run = false ∨ x.window.toNat ≤ elapsed p now x.t0) ∧ inp = x.out ∧
      blankerStep p inp now x = { x with run := false }) ∨
    ((x.run = false ∨ x.window.toNat ≤ elapsed p now x.t0) ∧ inp ≠ x.out ∧
      blankerStep p inp now x = { x with out := inp, t0 := now, run := true }) := by
  obtain ⟨pol, win, out, cand, t0, run⟩ := x
  unfold blankerStep blankerTimer
  cases run
  · by_cases h : inp = out <;> simp [h]
  · rcases Nat.lt_or_ge (elapsed p now t0) win.toNat with h' | h'
    · simp [expired, h', Nat.not_le.mpr h']
    · by_cases h : inp = out <;> simp [expired, h, h', Nat.not_lt.mpr h']

/-- A holder update (R123). -/
theorem holderStep_cases (p : Params) (inp : Word) (now : Time) (x : Filter) :
    (inp = x.out ∧ holderStep p inp now x = { x with run := false }) ∨
    (inp ≠ x.out ∧ (x.run = false ∨ inp ≠ x.cand) ∧ 0 < x.window.toNat ∧
      holderStep p inp now x = { x with cand := inp, t0 := now, run := true }) ∨
    (inp ≠ x.out ∧ (x.run = false ∨ inp ≠ x.cand) ∧ x.window.toNat = 0 ∧
      holderStep p inp now x = { x with out := inp, cand := inp, t0 := now, run := false }) ∨
    (inp ≠ x.out ∧ x.run = true ∧ inp = x.cand ∧ elapsed p now x.t0 < x.window.toNat ∧ holderStep p inp now x = x) ∨
    (inp ≠ x.out ∧ x.run = true ∧ inp = x.cand ∧ x.window.toNat ≤ elapsed p now x.t0 ∧
      holderStep p inp now x = { x with out := x.cand, run := false }) := by
  unfold holderStep
  by_cases h : inp = x.out
  · exact .inl ⟨h, if_pos h⟩
  · rw [if_neg h]
    rcases holderTimer_cases inp now x with ⟨h1, h2, e⟩ | ⟨h1, e⟩ <;> rw [e]
    · rcases commitExpired_cases p now x with ⟨h3, e'⟩ | ⟨h3, e'⟩
      · exact .inr (.inr (.inr (.inr ⟨h, h1, h2, h3, e'⟩)))
      · exact .inr (.inr (.inr (.inl ⟨h, h1, h2, h3, e'⟩)))
    · rcases commitExpired_cases p now { x with cand := inp, t0 := now, run := true } with ⟨h3, e'⟩ | ⟨h3, e'⟩
      · exact .inr (.inr (.inl ⟨h, h1, by simpa using h3, e'⟩))
      · exact .inr (.inl ⟨h, h1, by simpa using h3, e'⟩)

/-- A delayer update (R124). -/
theorem delayerStep_cases (p : Params) (inp : Word) (now : Time) (x : Filter) :
    (inp ≠ x.cand ∧ 0 < x.window.toNat ∧
      delayerStep p inp now x = { x with cand := inp, t0 := now, run := true }) ∨
    (inp ≠ x.cand ∧ x.window.toNat = 0 ∧
      delayerStep p inp now x = { x with out := inp, cand := inp, t0 := now, run := false }) ∨
    (inp = x.cand ∧ (x.run = false ∨ elapsed p now x.t0 < x.window.toNat) ∧ delayerStep p inp now x = x) ∨
    (inp = x.cand ∧ x.run = true ∧ x.window.toNat ≤ elapsed p now x.t0 ∧
      delayerStep p inp now x = { x with out := x.cand, run := false }) := by
  unfold delayerStep
  rcases delayerTimer_cases inp now x with ⟨h, e⟩ | ⟨h, e⟩ <;> simp only [e]
  · cases hr : x.run
    · exact .inr (.inr (.inl ⟨h, .inl rfl, by simp⟩))
    · rcases commitExpired_cases p now x with ⟨h3, e'⟩ | ⟨h3, e'⟩
      · exact .inr (.inr (.inr ⟨h, rfl, h3, by simpa using e'⟩))
      · exact .inr (.inr (.inl ⟨h, .inr h3, by simpa using e'⟩))
  · rcases commitExpired_cases p now { x with cand := inp, t0 := now, run := true } with ⟨h3, e'⟩ | ⟨h3, e'⟩
    · exact .inr (.inl ⟨h, by simpa using h3, by simpa using e'⟩)
    · exact .inl ⟨h, by simpa using h3, by simpa using e'⟩

/-- No step writes the policy or the window. -/
theorem filterStep_config (p : Params) (inp : Word) (now : Time) (x : Filter) :
    (filterStep p inp now x).policy = x.policy ∧ (filterStep p inp now x).window = x.window := by
  unfold filterStep
  split
  · rcases holderStep_cases p inp now x with ⟨_, e⟩ | ⟨_, _, _, e⟩ | ⟨_, _, _, e⟩ | ⟨_, _, _, _, e⟩ | ⟨_, _, _, _, e⟩ <;>
      simp [e]
  · rcases delayerStep_cases p inp now x with ⟨_, _, e⟩ | ⟨_, _, e⟩ | ⟨_, _, e⟩ | ⟨_, _, _, e⟩ <;> simp [e]
  · rcases blankerStep_cases p inp now x with ⟨_, _, e⟩ | ⟨_, _, e⟩ | ⟨_, _, e⟩ <;> simp [e]

end Sys2Proof.Machine
end

