-- ==== Sys2Proof/Laws/Decode.lean ====
section
/-! SUPPORT. A command word and its two fields. -/

namespace Sys2Proof

/-- The bits of a word put together from its two fields. -/
theorem word_getLsbD (op k : Byte) (i : Nat) :
    (op ++ k : CommandWord).getLsbD i = if i < 8 then k.getLsbD i else op.getLsbD (i - 8) := by
  have h := BitVec.getLsbD_append (x := op) (y := k) (i := i)
  by_cases hi : i < 8 <;> simpa [hi, -BitVec.getLsbD_eq_getElem] using h

@[simp] theorem opField_append (op k : Byte) : opField (op ++ k) = op := by
  apply BitVec.eq_of_getLsbD_eq; intro i hi
  rw [opField, BitVec.getLsbD_extractLsb', word_getLsbD]
  simp [hi, -BitVec.getLsbD_eq_getElem]

@[simp] theorem indexField_append (op k : Byte) : indexField (op ++ k) = k := by
  apply BitVec.eq_of_getLsbD_eq; intro i hi
  rw [indexField, BitVec.getLsbD_extractLsb', word_getLsbD]
  simp [hi, -BitVec.getLsbD_eq_getElem]

/-- A command word is its opcode and its index field. -/
theorem opField_append_indexField (w : CommandWord) : opField w ++ indexField w = w := by
  apply BitVec.eq_of_getLsbD_eq; intro i hi
  rw [word_getLsbD, opField, indexField, BitVec.getLsbD_extractLsb', BitVec.getLsbD_extractLsb']
  by_cases h : i < 8
  · simp [h, -BitVec.getLsbD_eq_getElem]
  · have h1 : i - 8 < 8 := by omega
    have h2 : 8 + (i - 8) = i := by omega
    simp [h, h1, h2, -BitVec.getLsbD_eq_getElem]

/-- The decoder reads a word field by field. -/
theorem decode_append (op k : Byte) :
    decode (op ++ k) = match op with
    | 0x00#8 => .ok .nop
    | 0x01#8 => .ok (.rd k)
    | 0x02#8 => .ok (.wr k)
    | 0x03#8 => .ok .rst
    | 0x10#8 => .ok (.dbfInit k)
    | 0x11#8 => .ok (.dbfUpd k)
    | 0x12#8 => .ok (.dbfStat k)
    | 0x20#8 => .ok .edsInit
    | 0x21#8 => .ok .edsPoll
    | 0x22#8 => .ok (.edsBind k)
    | 0x23#8 => .ok .edsNext
    | 0x30#8 => .ok .qedInit
    | 0x31#8 => .ok .qedUpd
    | 0x32#8 => .ok (.qedRdacc k)
    | 0x33#8 => .ok (.qedRdabs k)
    | 0x34#8 => .ok (.qedRdmode k)
    | 0x35#8 => .ok .qedRdtrn
    | op => .error (.reserved op) := by
  unfold decode; rw [opField_append, indexField_append]
  all_goals rfl

end Sys2Proof
end

