-- ==== Sys2Proof/Laws/Eds.lean ====
section
/-! SUPPORT. What the steps of one poll can do, case by case, and what a poll leaves alone. -/

namespace Sys2Proof.Machine

/-- Steps 1 and 2 of a poll: the vector equals the committed one and the timer stops; or it is the candidate of a timer
that has not expired; or it is committed. -/
theorem pollDebounce_cases (p : Params) (raw : List Byte) (now : Time) (w : Poll) :
    (raw = w.eds.cur ∧ pollDebounce p raw now w = { w with eds := { w.eds with debrun := false } }) ∨
    (∃ t0, raw ≠ w.eds.cur ∧ t0 = (restartOnChange now raw ⟨w.eds.pend, w.eds.debt0, w.eds.debrun⟩).t0 ∧
      elapsed p now t0 < w.eds.debounce.toNat ∧
      pollDebounce p raw now w = { w with eds := { w.eds with pend := raw, debt0 := t0, debrun := true } }) ∨
    (∃ t0, raw ≠ w.eds.cur ∧ t0 = (restartOnChange now raw ⟨w.eds.pend, w.eds.debt0, w.eds.debrun⟩).t0 ∧
      w.eds.debounce.toNat ≤ elapsed p now t0 ∧
      pollDebounce p raw now w =
        commitVector raw now { w with eds := { w.eds with pend := raw, debt0 := t0, debrun := false } }) := by
  unfold pollDebounce
  rcases debounce_cases p w.eds.debounce.toNat now w.eds.cur raw ⟨w.eds.pend, w.eds.debt0, w.eds.debrun⟩ with
    ⟨h, e⟩ | ⟨h, h', e⟩ | ⟨h, h', e⟩
  · exact .inl ⟨h, by simp [e]⟩
  · exact .inr (.inr ⟨_, h, rfl, h', by simp [e]⟩)
  · exact .inr (.inl ⟨_, h, rfl, h', by simp [e]⟩)

/-- When the repeat timer fires (R149, R150). -/
theorem repeatFires_iff (p : Params) (now : Time) (d : Eds) :
    repeatFires p now d = true ↔
      d.repdly ≠ 0#8 ∧ d.repint ≠ 0#8 ∧
        (if d.repph then 10 * d.repint.toNat ≤ elapsed p now d.rept0
          else 100 * d.repdly.toNat ≤ elapsed p now d.anchor) := by
  cases h : d.repph <;> simp [repeatFires, h, expired, and_assoc]

/-- When the long-press timer fires (R151, R152). -/
theorem longFires_iff (p : Params) (now : Time) (d : Eds) :
    longFires p now d = true ↔
      d.lpdly ≠ 0#8 ∧ d.lparm = true ∧ 100 * d.lpdly.toNat ≤ elapsed p now d.anchor := by
  simp [longFires, expired, and_assoc]

theorem pollRepeat_cases (p : Params) (now : Time) (w : Poll) :
    (repeatFires p now w.eds = true ∧
      pollRepeat p now w =
        { w with rpt := w.eds.cur.map activeLines, eds := { w.eds with repph := true, rept0 := now } }) ∨
    (repeatFires p now w.eds = false ∧ pollRepeat p now w = w) := by
  unfold pollRepeat
  cases h : repeatFires p now w.eds
  · exact .inr ⟨rfl, by simp⟩
  · exact .inl ⟨rfl, by simp⟩

theorem pollLong_cases (p : Params) (now : Time) (w : Poll) :
    (longFires p now w.eds = true ∧
      pollLong p now w =
        { w with
          lng := List.zipWith longLines w.eds.cur w.eds.lpdone
          eds := { w.eds with
            lpdone := List.zipWith (· ||| ·) w.eds.lpdone (List.zipWith longLines w.eds.cur w.eds.lpdone)
            lparm := false } }) ∨
    (longFires p now w.eds = false ∧ pollLong p now w = w) := by
  unfold pollLong
  cases h : longFires p now w.eds
  · exact .inr ⟨rfl, by simp⟩
  · exact .inl ⟨rfl, by simp⟩

/-- In the poll that commits, neither timer fires (R159(e)). -/
theorem timers_after_commit (p : Params) (new : List Byte) (now : Time) (w : Poll) :
    pollLong p now (pollRepeat p now (commitVector new now w)) = commitVector new now w := by
  have hz : ∀ x : Byte, 100 * x.toNat ≤ 0 → x = 0#8 := fun x h => by
    apply BitVec.eq_of_toNat_eq; simp; omega
  have h1 : repeatFires p now (commitVector new now w).eds = false := by
    apply Bool.eq_false_iff.mpr
    rw [ne_eq, repeatFires_iff]
    simp only [commitVector_eds_repph, commitVector_eds_anchor, elapsed_self, Bool.false_eq_true, if_false]
    exact fun h => h.1 (hz _ h.2.2)
  have h2 : longFires p now (commitVector new now w).eds = false := by
    apply Bool.eq_false_iff.mpr
    rw [ne_eq, longFires_iff]
    simp only [commitVector_eds_anchor, elapsed_self]
    exact fun h => h.1 (hz _ h.2.2)
  rcases pollRepeat_cases p now (commitVector new now w) with ⟨h, _⟩ | ⟨_, e⟩
  · rw [h1] at h; cases h
  · rw [e]
    rcases pollLong_cases p now (commitVector new now w) with ⟨h, _⟩ | ⟨_, e'⟩
    · rw [h2] at h; cases h
    · exact e'

/-- A poll commits and no timer fires, or it commits nothing and the two timers are evaluated on the committed vector as
it was. -/
theorem pollSteps_cases (p : Params) (raw : List Byte) (now : Time) (d : Eds) :
    (∃ t0, raw ≠ d.cur ∧ t0 = (restartOnChange now raw ⟨d.pend, d.debt0, d.debrun⟩).t0 ∧
      d.debounce.toNat ≤ elapsed p now t0 ∧
      pollSteps p raw now d =
        commitVector raw now (startPoll p { d with pend := raw, debt0 := t0, debrun := false })) ∨
    (∃ pend t0 run,
      (raw = d.cur ∧ pend = d.pend ∧ t0 = d.debt0 ∧ run = false ∨
        raw ≠ d.cur ∧ pend = raw ∧ t0 = (restartOnChange now raw ⟨d.pend, d.debt0, d.debrun⟩).t0 ∧ run = true ∧
          elapsed p now t0 < d.debounce.toNat) ∧
      pollSteps p raw now d =
        pollLong p now (pollRepeat p now (startPoll p { d with pend := pend, debt0 := t0, debrun := run }))) := by
  unfold pollSteps
  rcases pollDebounce_cases p raw now (startPoll p d) with ⟨h, e⟩ | ⟨t0, h, ht, h', e⟩ | ⟨t0, h, ht, h', e⟩ <;> rw [e]
  · exact .inr ⟨d.pend, d.debt0, false, .inl ⟨h, rfl, rfl, rfl⟩, rfl⟩
  · exact .inr ⟨raw, t0, true, .inr ⟨h, rfl, ht, rfl, h'⟩, rfl⟩
  · refine .inl ⟨t0, h, ht, h', ?_⟩
    rw [timers_after_commit]; rfl

/-- The step 3 of a poll writes its own registers only. -/
theorem pollTimers_frame (p : Params) (now : Time) (w : Poll) :
    ∃ lpdone rept0 repph lparm rpt lng,
      pollLong p now (pollRepeat p now w) =
        { w with
          rpt := rpt, lng := lng
          eds := { w.eds with lpdone := lpdone, rept0 := rept0, repph := repph, lparm := lparm } } := by
  rcases pollRepeat_cases p now w with ⟨_, e⟩ | ⟨_, e⟩ <;> rw [e]
  · rcases pollLong_cases p now
      { w with rpt := w.eds.cur.map activeLines, eds := { w.eds with repph := true, rept0 := now } } with
      ⟨_, e'⟩ | ⟨_, e'⟩ <;> rw [e'] <;> exact ⟨_, _, _, _, _, _, rfl⟩
  · rcases pollLong_cases p now w with ⟨_, e'⟩ | ⟨_, e'⟩ <;> rw [e'] <;> exact ⟨_, _, _, _, _, _, rfl⟩

/-- The step 3 of a poll that commits nothing: which timer fires, and what it leaves. -/
theorem pollTimers_cases (p : Params) (now : Time) (d : Eds) :
    ∃ rpt lng lpdone repph rept0 lparm,
      pollLong p now (pollRepeat p now (startPoll p d)) =
        { startPoll p d with
          rpt := rpt, lng := lng
          eds := { d with lpdone := lpdone, repph := repph, rept0 := rept0, lparm := lparm } } ∧
      (repeatFires p now d = true → rpt = d.cur.map activeLines ∧ repph = true ∧ rept0 = now) ∧
      (repeatFires p now d = false → rpt = List.replicate p.nb 0#8 ∧ repph = d.repph ∧ rept0 = d.rept0) ∧
      (longFires p now d = true →
        lng = List.zipWith longLines d.cur d.lpdone ∧
        lpdone = List.zipWith (· ||| ·) d.lpdone (List.zipWith longLines d.cur d.lpdone) ∧ lparm = false) ∧
      (longFires p now d = false → lng = List.replicate p.nb 0#8 ∧ lpdone = d.lpdone ∧ lparm = d.lparm) := by
  rcases pollRepeat_cases p now (startPoll p d) with ⟨h, e⟩ | ⟨h, e⟩ <;> rw [e] <;> simp only [startPoll_eds] at h
  · rcases pollLong_cases p now
      { startPoll p d with rpt := d.cur.map activeLines, eds := { d with repph := true, rept0 := now } } with
      ⟨h', e'⟩ | ⟨h', e'⟩ <;> simp only [startPoll_eds] at * <;> rw [e'] <;>
      (have hl : longFires p now d = _ := h') <;>
      exact ⟨_, _, _, _, _, _, rfl, by simp [h], by simp [h], by simp [hl], by simp [hl]⟩
  · rcases pollLong_cases p now (startPoll p d) with ⟨h', e'⟩ | ⟨h', e'⟩ <;> simp only [startPoll_eds] at * <;>
      rw [e'] <;> exact ⟨_, _, _, _, _, _, rfl, by simp [h], by simp [h], by simp [h'], by simp [h']⟩

/-- What no poll writes. -/
theorem pollSteps_frame (p : Params) (raw : List Byte) (now : Time) (d : Eds) :
    (pollSteps p raw now d).eds.debounce = d.debounce ∧ (pollSteps p raw now d).eds.repdly = d.repdly ∧
    (pollSteps p raw now d).eds.repint = d.repint ∧ (pollSteps p raw now d).eds.lpdly = d.lpdly ∧
    (pollSteps p raw now d).eds.nbind = d.nbind ∧ (pollSteps p raw now d).eds.slots = d.slots ∧
    (pollSteps p raw now d).eds.cursor = d.cursor := by
  rcases pollSteps_cases p raw now d with ⟨t0, _, _, _, e⟩ | ⟨pend, t0, run, _, e⟩ <;> rw [e]
  · simp
  · obtain ⟨_, _, _, _, _, _, e'⟩ := pollTimers_frame p now
      (startPoll p { d with pend := pend, debt0 := t0, debrun := run })
    rw [e']; simp

end Sys2Proof.Machine
end

