-- ==== Sys2Proof/Laws/Exec.lean ====
section
/-! SUPPORT. What every operation and every step has in common: an operation gives one response and leaves the parameters
and the model's record of the command port alone. -/

namespace Sys2Proof.Machine

/-- What no operation writes: the parameters, the ports, the pending events, the responses already given. -/
def SameHost (s t : State) : Prop :=
  t.params = s.params ∧ t.ports = s.ports ∧ t.pending = s.pending ∧ t.responses = s.responses

theorem SameHost.refl (s : State) : SameHost s s := ⟨rfl, rfl, rfl, rfl⟩

theorem writeNumber_sameHost (s : State) (k : Byte) (v : Word) : SameHost s (writeNumber s k v) := by
  unfold writeNumber
  split
  · next r _ =>
    cases r
    case policy f => simp only [writeReg, writePolicy]; split <;> exact ⟨rfl, rfl, rfl, rfl⟩
    all_goals exact ⟨rfl, rfl, rfl, rfl⟩
  · exact ⟨rfl, rfl, rfl, rfl⟩

/-- Every operation completes with one response. -/
theorem exec_respond (i : Instr) (s : State) : ∃ u r, exec i s = respond u r ∧ SameHost s u := by
  cases i
  case wr k => exact ⟨_, _, rfl, writeNumber_sameHost s k _⟩
  case dbfInit f => simp only [exec, execDbfInit]; split <;> exact ⟨_, _, rfl, ⟨rfl, rfl, rfl, rfl⟩⟩
  case dbfUpd f => simp only [exec, execDbfUpd]; split <;> exact ⟨_, _, rfl, ⟨rfl, rfl, rfl, rfl⟩⟩
  case dbfStat f => simp only [exec, execDbfStat]; split <;> exact ⟨_, _, rfl, ⟨rfl, rfl, rfl, rfl⟩⟩
  case edsBind pin =>
    simp only [exec, execEdsBind]; split
    · exact ⟨_, _, rfl, ⟨rfl, rfl, rfl, rfl⟩⟩
    · split <;> exact ⟨_, _, rfl, ⟨rfl, rfl, rfl, rfl⟩⟩
  case edsNext => simp only [exec, execEdsNext]; split <;> exact ⟨_, _, rfl, ⟨rfl, rfl, rfl, rfl⟩⟩
  case qedRdacc e => simp only [exec, execQedRdacc]; split <;> exact ⟨_, _, rfl, ⟨rfl, rfl, rfl, rfl⟩⟩
  case qedRdabs e => simp only [exec, execQedRdabs]; split <;> exact ⟨_, _, rfl, ⟨rfl, rfl, rfl, rfl⟩⟩
  case qedRdmode e => simp only [exec, execQedRdmode]; split <;> exact ⟨_, _, rfl, ⟨rfl, rfl, rfl, rfl⟩⟩
  all_goals exact ⟨_, _, rfl, ⟨rfl, rfl, rfl, rfl⟩⟩

/-- The three kinds of step: nothing presented, a hardware reset, a command. -/
theorem step_cases (s t : State) (h : step s = .next t) :
    (s.pending = [] ∧ t = s) ∨
    (∃ rest, s.pending = .hardReset :: rest ∧ t = ({ s with pending := rest } : State).resetBlock) ∨
    (∃ word ports rest, s.pending = .command word ports :: rest ∧
      ((∃ i, decode word = .ok i ∧ exec i (s.sample rest ports) = .next t) ∨
       (∃ op, decode word = .error (.reserved op) ∧
          t = { s.sample rest ports with responses := s.responses ++ [Response.zero] }))) := by
  unfold step at h
  split at h
  · next hp => simp only [idle, Host.Outcome.next.injEq] at h; exact .inl ⟨hp, h.symm⟩
  · next rest hp =>
    simp only [hardReset, Host.Outcome.next.injEq] at h
    exact .inr (.inl ⟨rest, hp, h.symm⟩)
  · next word ports rest hp =>
    refine .inr (.inr ⟨word, ports, rest, hp, ?_⟩)
    split at h
    · next i hd => exact .inl ⟨i, hd, h⟩
    · next e hd =>
      obtain ⟨op⟩ := e
      simp only [reservedCommand, respond, Host.Outcome.next.injEq] at h
      exact .inr ⟨op, hd, h.symm⟩

/-- A run of a machine goes on from where its first step ends. -/
theorem machine_run_succ (M : Host.Core) (n : Nat) (s t : M.State) (h : M.step s = .next t) :
    M.run (n + 1) s = M.run n t := by
  simp only [Host.Core.run, h]

/-- A run goes on from where its first step ends. -/
theorem run_succ (n : Nat) (s t : State) (h : step s = .next t) :
    Sys2Proof.core.run (n + 1) s = Sys2Proof.core.run n t := machine_run_succ Sys2Proof.core n s t h

@[simp] theorem run_zero (s : State) : Sys2Proof.core.run 0 s = .next s := rfl

/-- A property of states that survives taking a command off the port, giving a response, a reset and every operation
survives every step. -/
theorem step_invariant (P : State → Prop)
    (hs : ∀ s rest ports, P s → P (s.sample rest ports))
    (hr : ∀ s rs, P s → P { s with responses := rs })
    (hreset : ∀ s rest, P s → P ({ s with pending := rest } : State).resetBlock)
    (hexec : ∀ i s t, P s → exec i s = .next t → P t)
    (s t : State) (h : P s) (hstep : step s = .next t) : P t := by
  rcases step_cases s t hstep with ⟨_, rfl⟩ | ⟨rest, _, rfl⟩ | ⟨word, ports, rest, _, ⟨i, _, he⟩ | ⟨_, _, rfl⟩⟩
  · exact h
  · exact hreset s rest h
  · exact hexec i _ t (hs s rest ports h) he
  · exact hr _ _ (hs s rest ports h)

end Sys2Proof.Machine
end

