-- ==== Sys2Proof/Laws/PerInstr.lean ====
section
/-! SUPPORT. The statements made per operation: the command word of an operation holds its opcode in `cmd[15:8]` and its
index, or 0, in `cmd[7:0]` (30_encoding.md R90, R93, R95). -/

namespace Sys2Proof.Laws.CommandWordFields

/-- The two fields of the command word of `i`. -/
def Statement (i : Instr) : Prop := opField (encode i) = opcodeOf i ∧ indexField (encode i) = indexOf i

theorem nop : Statement .nop := ⟨opField_append _ _, indexField_append _ _⟩

theorem rd (k : Byte) : Statement (.rd k) := ⟨opField_append _ _, indexField_append _ _⟩

theorem wr (k : Byte) : Statement (.wr k) := ⟨opField_append _ _, indexField_append _ _⟩

theorem rst : Statement .rst := ⟨opField_append _ _, indexField_append _ _⟩

theorem dbfInit (f : Byte) : Statement (.dbfInit f) := ⟨opField_append _ _, indexField_append _ _⟩

theorem dbfUpd (f : Byte) : Statement (.dbfUpd f) := ⟨opField_append _ _, indexField_append _ _⟩

theorem dbfStat (f : Byte) : Statement (.dbfStat f) := ⟨opField_append _ _, indexField_append _ _⟩

theorem edsInit : Statement .edsInit := ⟨opField_append _ _, indexField_append _ _⟩

theorem edsPoll : Statement .edsPoll := ⟨opField_append _ _, indexField_append _ _⟩

theorem edsBind (pin : Byte) : Statement (.edsBind pin) := ⟨opField_append _ _, indexField_append _ _⟩

theorem edsNext : Statement .edsNext := ⟨opField_append _ _, indexField_append _ _⟩

theorem qedInit : Statement .qedInit := ⟨opField_append _ _, indexField_append _ _⟩

theorem qedUpd : Statement .qedUpd := ⟨opField_append _ _, indexField_append _ _⟩

theorem qedRdacc (e : Byte) : Statement (.qedRdacc e) := ⟨opField_append _ _, indexField_append _ _⟩

theorem qedRdabs (e : Byte) : Statement (.qedRdabs e) := ⟨opField_append _ _, indexField_append _ _⟩

theorem qedRdmode (e : Byte) : Statement (.qedRdmode e) := ⟨opField_append _ _, indexField_append _ _⟩

theorem qedRdtrn : Statement .qedRdtrn := ⟨opField_append _ _, indexField_append _ _⟩

end Sys2Proof.Laws.CommandWordFields
end

