-- ==== Sys2Proof/Laws/Qed.lean ====
section
/-! SUPPORT. What the steps of one tick can do, case by case, and what a tick leaves alone. -/

namespace Sys2Proof.Machine

/-! ## The registers of one encoder after a step over all of them -/

theorem enc_mapIdx (q : Qed) (g : Nat → Encoder → Encoder) (e : Nat) (h : e < q.encs.length) :
    ({ q with encs := q.encs.mapIdx g } : Qed).enc e = g e (q.enc e) := by
  simp [Qed.enc, List.getD, h]

/-! ## Rotation -/

/-- The step size of a trigger (R181). -/
theorem stepOf_cases (p : Params) (now : Time) (x : Encoder) :
    (x.trigv = true ∧ elapsed p now x.trigt < p.tVfast ∧ stepOf p now x = (p.stepVfast, true)) ∨
    (x.trigv = true ∧ p.tVfast ≤ elapsed p now x.trigt ∧ elapsed p now x.trigt < p.tFast ∧
      stepOf p now x = (p.stepFast, true)) ∨
    ((x.trigv = false ∨ (p.tVfast ≤ elapsed p now x.trigt ∧ p.tFast ≤ elapsed p now x.trigt)) ∧
      stepOf p now x = (1, false)) := by
  unfold stepOf
  cases h : x.trigv
  · exact .inr (.inr ⟨.inl rfl, by simp⟩)
  · rcases Nat.lt_or_ge (elapsed p now x.trigt) p.tVfast with h1 | h1
    · exact .inl ⟨rfl, h1, by simp [h1]⟩
    · rcases Nat.lt_or_ge (elapsed p now x.trigt) p.tFast with h2 | h2
      · exact .inr (.inl ⟨rfl, h1, h2, by simp [Nat.not_lt.mpr h1, h2]⟩)
      · exact .inr (.inr ⟨.inr ⟨h1, h2⟩, by simp [Nat.not_lt.mpr h1, Nat.not_lt.mpr h2]⟩)

theorem rotateEncoder_cases (p : Params) (now : Time) (up dn : Bool) (x : Encoder) :
    (up = false ∧ dn = false ∧ rotateEncoder p now up dn x = x) ∨
    ((up = true ∨ dn = true) ∧ rotateEncoder p now up dn x =
      { x with count := countAfter p up x.count (stepOf p now x).1, trigt := now, trigv := true }) := by
  unfold rotateEncoder
  cases up <;> cases dn <;> simp

/-- The rotation of an encoder never writes its mode registers. -/
theorem rotateEncoder_modes (p : Params) (now : Time) (up dn : Bool) (x : Encoder) :
    (rotateEncoder p now up dn x).nmodes = x.nmodes ∧ (rotateEncoder p now up dn x).mode = x.mode := by
  rcases rotateEncoder_cases p now up dn x with ⟨_, _, e⟩ | ⟨_, e⟩ <;> simp [e]

/-- The pulses of one encoder, from its own bits (R178 to R180). -/
theorem pulsesOf_getLsbD (p : Params) (v : Planes) (q : Qed) (e : Nat) (hn : p.ne ≤ 8) (he : e < p.ne) :
    let a1 := v.a.getLsbD e ^^ q.inv.getLsbD e
    let a0 := q.prev.a.getLsbD e ^^ q.inv.getLsbD e
    let b := v.b.getLsbD e
    let half := q.half.getLsbD e
    (pulsesOf p v q).1.getLsbD e = ((a1 && !a0 && !b) || (!a1 && a0 && half && b)) ∧
    (pulsesOf p v q).2.getLsbD e = ((a1 && !a0 && b) || (!a1 && a0 && half && !b)) := by
  have h8 : e < 8 := by omega
  simp only [pulsesOf, upPulses, downPulses, riseMask, fallMask, inverted, BitVec.getLsbD_or, BitVec.getLsbD_and,
    BitVec.getLsbD_not, BitVec.getLsbD_xor, emask_getLsbD p e hn, he, h8, decide_true, Bool.and_true, Bool.true_and]
  exact ⟨trivial, trivial⟩

/-- The pulses are of implemented encoders. -/
theorem pulsesOf_within (p : Params) (v : Planes) (q : Qed) :
    WithinEmask p (pulsesOf p v q).1 ∧ WithinEmask p (pulsesOf p v q).2 := by
  simp only [WithinEmask, pulsesOf, upPulses, downPulses, riseMask, fallMask, inverted]
  constructor <;>
  · apply BitVec.eq_of_getLsbD_eq; intro i hi
    simp only [BitVec.getLsbD_or, BitVec.getLsbD_and, BitVec.getLsbD_not, BitVec.getLsbD_xor]
    cases p.emask.getLsbD i <;> simp

/-- An encoder never counts both ways in one tick (R183). -/
theorem pulsesOf_exclusive (p : Params) (v : Planes) (q : Qed) : (pulsesOf p v q).1 &&& (pulsesOf p v q).2 = 0#8 := by
  simp only [pulsesOf, upPulses, downPulses, riseMask, fallMask]
  generalize inverted p q.inv v.a = a1
  generalize inverted p q.inv q.prev.a = a0
  apply BitVec.eq_of_getLsbD_eq; intro i hi
  simp only [BitVec.getLsbD_or, BitVec.getLsbD_and, BitVec.getLsbD_not, BitVec.getLsbD_zero, hi, decide_true,
    Bool.true_and]
  cases a1.getLsbD i <;> cases a0.getLsbD i <;> cases q.half.getLsbD i <;> cases v.b.getLsbD i <;> rfl

theorem tickLines_cases (p : Params) (v : Planes) (now : Time) (w : Tick) :
    (v = w.qed.prev ∧ tickLines p v now w = w) ∨ (v ≠ w.qed.prev ∧ tickLines p v now w = tickRotate p v now w) := by
  unfold tickLines
  by_cases h : v = w.qed.prev
  · exact .inl ⟨h, if_pos h⟩
  · exact .inr ⟨h, if_neg h⟩

/-! ## Switches -/

/-- The switch debounce of a tick: the pattern equals the debounced one; or it is the candidate of a timer that has not
expired; or it is committed. -/
theorem tickSwitches_cases (p : Params) (pat : Byte) (now : Time) (w : Tick) :
    (pat = w.qed.swcur ∧ tickSwitches p pat now w = { w with qed := { w.qed with swrun := false } }) ∨
    (∃ t0, pat ≠ w.qed.swcur ∧ t0 = (restartOnChange now pat ⟨w.qed.swpend, w.qed.swt0, w.qed.swrun⟩).t0 ∧
      elapsed p now t0 < p.swDebounce ∧
      tickSwitches p pat now w = { w with qed := { w.qed with swpend := pat, swt0 := t0, swrun := true } }) ∨
    (∃ t0, pat ≠ w.qed.swcur ∧ t0 = (restartOnChange now pat ⟨w.qed.swpend, w.qed.swt0, w.qed.swrun⟩).t0 ∧
      p.swDebounce ≤ elapsed p now t0 ∧
      tickSwitches p pat now w =
        commitSwitches pat now { w with qed := { w.qed with swpend := pat, swt0 := t0, swrun := false } }) := by
  unfold tickSwitches
  rcases debounce_cases p p.swDebounce now w.qed.swcur pat ⟨w.qed.swpend, w.qed.swt0, w.qed.swrun⟩ with
    ⟨h, e⟩ | ⟨h, h', e⟩ | ⟨h, h', e⟩
  · exact .inl ⟨h, by simp [e]⟩
  · exact .inr (.inr ⟨_, h, rfl, h', by simp [e]⟩)
  · exact .inr (.inl ⟨_, h, rfl, h', by simp [e]⟩)

/-- When the pattern long-press fires (R190). -/
theorem patternFires_iff (p : Params) (now : Time) (q : Qed) :
    patternFires p now q = true ↔
      q.qlparm = true ∧ q.swcur ≠ 0#8 ∧ 10 * p.encLpt ≤ elapsed p now q.patt0 := by
  simp [patternFires, expired, and_assoc]

theorem tickLong_cases (p : Params) (now : Time) (w : Tick) :
    (patternFires p now w.qed = true ∧
      tickLong p now w =
        { ev := { w.ev with longp := longPresses w.qed.swcur w.qed.lplatch }
          qed := { w.qed with lplatch := w.qed.lplatch ||| w.qed.swcur, qlparm := false } }) ∨
    (patternFires p now w.qed = false ∧ tickLong p now w = w) := by
  unfold tickLong
  cases h : patternFires p now w.qed
  · exact .inr ⟨rfl, by simp [h]⟩
  · exact .inl ⟨rfl, by simp [h]⟩

/-! ## Modes -/

/-- The mode of a cycling encoder, incremented (R191). -/
theorem incrementMode_cases (wrap : Bool) (n : Nat) (mode : Byte) (h : n < 128) :
    (mode.toNat < n ∧ (incrementMode wrap n mode).toNat = mode.toNat + 1) ∨
    (n ≤ mode.toNat ∧ wrap = true ∧ incrementMode wrap n mode = 1#8) ∨
    (n ≤ mode.toNat ∧ wrap = false ∧ (incrementMode wrap n mode).toNat = n) := by
  unfold incrementMode
  rcases Nat.lt_or_ge mode.toNat n with h1 | h1
  · refine .inl ⟨h1, ?_⟩
    rw [if_neg (by omega), BitVec.toNat_add, BitVec.toNat_ofNat]; omega
  · cases wrap
    · refine .inr (.inr ⟨h1, rfl, ?_⟩)
      simp only [h1, if_true, Bool.false_eq_true, if_false, BitVec.toNat_ofNat]; omega
    · exact .inr (.inl ⟨h1, rfl, by simp [h1]⟩)

/-! ## The whole tick -/

/-- A processed tick, said once: the rotation steps `l`, then the switch registers, the switch flags and the pattern
long-press as the debounce of the pattern and the long-press timer leave them, then the mode step. -/
theorem tickSteps_cases (p : Params) (v : Planes) (now : Time) (q : Qed) :
    ∃ (l : Tick) (swpend : Byte) (swt0 : Time) (swrun : Bool) (swcur lplatch : Byte) (patt0 : Time) (qlparm : Bool)
      (act deact tog shortp longp : Byte),
      l = tickLines p v now ⟨{ q with lasttick := now }, TickEvent.zero⟩ ∧
      tickSteps p v now q = tickModes
        ⟨{ l.qed with
            swpend := swpend, swt0 := swt0, swrun := swrun, swcur := swcur, lplatch := lplatch, patt0 := patt0,
            qlparm := qlparm },
          { l.ev with act := act, deact := deact, tog := tog, shortp := shortp, longp := longp }⟩ ∧
      (v.s = q.swcur → swrun = false ∧ swpend = q.swpend ∧ swt0 = q.swt0 ∧ swcur = q.swcur) ∧
      (v.s ≠ q.swcur →
        swpend = v.s ∧ swt0 = (restartOnChange now v.s ⟨q.swpend, q.swt0, q.swrun⟩).t0 ∧
        (elapsed p now swt0 < p.swDebounce → swrun = true ∧ swcur = q.swcur) ∧
        (p.swDebounce ≤ elapsed p now swt0 → swrun = false ∧ swcur = v.s)) ∧
      act = activated swcur q.swcur ∧ deact = deactivated swcur q.swcur ∧ tog = toggled swcur q.swcur ∧
      shortp = shortPresses swcur q.swcur q.lplatch ∧
      (swcur = q.swcur →
        patt0 = q.patt0 ∧
        (patternFires p now q = true →
          longp = longPresses q.swcur q.lplatch ∧ lplatch = q.lplatch ||| q.swcur ∧ qlparm = false) ∧
        (patternFires p now q = false → longp = 0#8 ∧ lplatch = q.lplatch ∧ qlparm = q.qlparm)) ∧
      (swcur ≠ q.swcur →
        patt0 = now ∧ (1 ≤ p.encLpt → lplatch = q.lplatch &&& swcur ∧ qlparm = true ∧ longp = 0#8)) ∧
      (lplatch = q.lplatch ∨ lplatch = q.lplatch ||| q.swcur ∨ lplatch = q.lplatch &&& swcur ∨
        lplatch = (q.lplatch &&& swcur) ||| swcur) := by
  have hl : ∀ l, l = tickLines p v now ⟨{ q with lasttick := now }, TickEvent.zero⟩ →
      l.qed.swpend = q.swpend ∧ l.qed.swt0 = q.swt0 ∧ l.qed.swrun = q.swrun ∧ l.qed.swcur = q.swcur ∧
      l.qed.lplatch = q.lplatch ∧ l.qed.patt0 = q.patt0 ∧ l.qed.qlparm = q.qlparm ∧
      l.ev.act = 0#8 ∧ l.ev.deact = 0#8 ∧ l.ev.tog = 0#8 ∧ l.ev.shortp = 0#8 ∧ l.ev.longp = 0#8 := by
    intro l h
    rcases tickLines_cases p v now ⟨{ q with lasttick := now }, TickEvent.zero⟩ with ⟨_, e⟩ | ⟨_, e⟩ <;>
      rw [e] at h <;> subst h <;> simp [TickEvent.zero]
  unfold tickSteps
  generalize hL : tickLines p v now ⟨{ q with lasttick := now }, TickEvent.zero⟩ = l
  obtain ⟨a1, a2, a3, a4, a5, a6, a7, b1, b2, b3, b4, b5⟩ := hl l hL.symm
  have z1 : ∀ x : Byte, activated x x = 0#8 := fun x => by simp [activated]
  have z2 : ∀ x : Byte, deactivated x x = 0#8 := fun x => by simp [deactivated]
  have z3 : ∀ x : Byte, toggled x x = 0#8 := fun x => by simp [toggled]
  have z4 : ∀ x y : Byte, shortPresses x x y = 0#8 := fun x y => by simp [shortPresses, z2]
  rcases tickSwitches_cases p v.s now l with
      ⟨h1, e⟩ | ⟨t0, h1, h2, h3, e⟩ | ⟨t0, h1, h2, h3, e⟩ <;> rw [e] <;> rw [a4] at h1
  · rcases tickLong_cases p now { l with qed := { l.qed with swrun := false } } with ⟨g1, e'⟩ | ⟨g1, e'⟩ <;> rw [e']
    · have g1' : patternFires p now q = true := by rw [← g1]; simp [patternFires, a4, a6, a7]
      refine ⟨l, l.qed.swpend, l.qed.swt0, false, l.qed.swcur, (l.qed.lplatch ||| l.qed.swcur),
          l.qed.patt0, false, l.ev.act, l.ev.deact, l.ev.tog, l.ev.shortp, longPresses l.qed.swcur l.qed.lplatch, rfl, rfl, ?_, ?_, ?_, ?_, ?_, ?_, ?_, ?_, ?_⟩
      all_goals (clear e e' hL hl g1; try simp_all [-not_and])
    · have g1' : patternFires p now q = false := by rw [← g1]; simp [patternFires, a4, a6, a7]
      refine ⟨l, l.qed.swpend, l.qed.swt0, false, l.qed.swcur, l.qed.lplatch, l.qed.patt0,
          l.qed.qlparm, l.ev.act, l.ev.deact, l.ev.tog, l.ev.shortp, l.ev.longp, rfl, rfl, ?_, ?_, ?_, ?_, ?_, ?_, ?_, ?_, ?_⟩
      all_goals (clear e e' hL hl g1; try simp_all [-not_and])
  · rw [a1, a2, a3] at h2
    rcases tickLong_cases p now { l with qed := { l.qed with swpend := v.s, swt0 := t0, swrun := true } } with
        ⟨g1, e'⟩ | ⟨g1, e'⟩ <;> rw [e']
    · have g1' : patternFires p now q = true := by rw [← g1]; simp [patternFires, a4, a6, a7]
      refine ⟨l, v.s, t0, true, l.qed.swcur, (l.qed.lplatch ||| l.qed.swcur), l.qed.patt0, false,
          l.ev.act, l.ev.deact, l.ev.tog, l.ev.shortp, longPresses l.qed.swcur l.qed.lplatch, rfl, rfl, ?_, ?_, ?_, ?_, ?_, ?_, ?_, ?_, ?_⟩
      all_goals (clear e e' hL hl g1; try simp_all [-not_and])
    · have g1' : patternFires p now q = false := by rw [← g1]; simp [patternFires, a4, a6, a7]
      refine ⟨l, v.s, t0, true, l.qed.swcur, l.qed.lplatch, l.qed.patt0, l.qed.qlparm, l.ev.act,
          l.ev.deact, l.ev.tog, l.ev.shortp, l.ev.longp, rfl, rfl, ?_, ?_, ?_, ?_, ?_, ?_, ?_, ?_, ?_⟩
      all_goals (clear e e' hL hl g1; try simp_all [-not_and])
  · rw [a1, a2, a3] at h2
    rcases tickLong_cases p now (commitSwitches v.s now { l with qed := { l.qed with swpend := v.s, swt0 := t0, swrun := false } }) with
        ⟨g1, e'⟩ | ⟨g1, e'⟩ <;> rw [e']
    · have hz : p.encLpt = 0 := by
        have := ((patternFires_iff _ _ _).mp g1).2.2
        simp at this; exact this
      refine ⟨l, v.s, t0, false, v.s, (l.qed.lplatch &&& v.s ||| v.s), now, false,
          activated v.s l.qed.swcur, deactivated v.s l.qed.swcur, toggled v.s l.qed.swcur, shortPresses v.s l.qed.swcur l.qed.lplatch, longPresses v.s (l.qed.lplatch &&& v.s), rfl, rfl, ?_, ?_, ?_, ?_, ?_, ?_, ?_, ?_, ?_⟩
      all_goals (clear e e' hL hl g1; try simp_all [-not_and])
    · refine ⟨l, v.s, t0, false, v.s, (l.qed.lplatch &&& v.s), now, true,
        activated v.s l.qed.swcur, deactivated v.s l.qed.swcur, toggled v.s l.qed.swcur, shortPresses v.s l.qed.swcur l.qed.lplatch, l.ev.longp, rfl, rfl, ?_, ?_, ?_, ?_, ?_, ?_, ?_, ?_, ?_⟩
      all_goals (clear e e' hL hl g1; try simp_all [-not_and])

/-- The registers of an encoder after the mode step. -/
theorem enc_tickModes (w : Tick) (e : Nat) (h : e < w.qed.encs.length) :
    (tickModes w).qed.enc e = { w.qed.enc e with mode := modeAfter w.qed w.ev e (w.qed.enc e) } := by
  simp [Qed.enc, List.getD, h]

theorem tickLines_length (p : Params) (v : Planes) (now : Time) (w : Tick) :
    (tickLines p v now w).qed.encs.length = w.qed.encs.length := by
  rcases tickLines_cases p v now w with ⟨_, e⟩ | ⟨_, e⟩ <;> rw [e]; simp

theorem quickMask_getLsbD (p : Params) (now : Time) (q : Qed) (e : Nat) (hl : q.encs.length ≤ 8) (he : e < q.encs.length) :
    (quickMask p now q.encs).getLsbD e = (stepOf p now (q.enc e)).2 := by
  rw [quickMask, maskOf_getLsbD _ _ (by simpa using hl)]; simp [Qed.enc, List.getD, he]

/-! ## The count in CW-bit two's complement (R182) -/

/-- A 32-bit sum cut to `m` bits is the exact sum wrapped to `m` bits. -/
theorem bmod_of_emod (x : Int) (w : Word) (m : Nat) (h : m ≤ 32) (e : (w.toNat : Int) = x % ((2 ^ 32 : Nat) : Int)) :
    Int.bmod w.toNat (2 ^ m) = Int.bmod x (2 ^ m) := by
  have hd : ((2 ^ m : Nat) : Int) ∣ ((2 ^ 32 : Nat) : Int) := by exact_mod_cast Nat.pow_dvd_pow 2 h
  rw [e, ← Int.emod_bmod (x % _), Int.emod_emod_of_dvd _ hd, Int.emod_bmod]

/-- Reading a 32-bit count as signed or as unsigned makes no difference after the wrap. -/
theorem bmod_toNat_eq_toInt (c : Word) (m : Nat) (z : Int) (h : m ≤ 32) :
    Int.bmod (c.toNat + z) (2 ^ m) = Int.bmod (c.toInt + z) (2 ^ m) := by
  obtain ⟨k, hk⟩ : ((2 ^ m : Nat) : Int) ∣ ((2 ^ 32 : Nat) : Int) := by exact_mod_cast Nat.pow_dvd_pow 2 h
  rw [BitVec.toInt_eq_toNat_cond]
  split
  · rfl
  · rw [hk, show ((c.toNat : Int) - (2 ^ m : Nat) * k + z) = (c.toNat + z) - (2 ^ m : Nat) * k by ring]
    rw [← Int.emod_bmod ((c.toNat + z) - _), Int.sub_mul_emod_self_left, Int.emod_bmod]

end Sys2Proof.Machine
end

