-- ==== Sys2Proof/Tests/Slice0.lean ====
section
/-! SUPPORT. The model's own tests, each decided by the kernel. The expected values come from the worked examples of the
rules named (30_encoding.md to 43_encoder_decoder.md) and from 95_test_vectors.md. The theorems named witness_… show, for
each obligation that has hypotheses, a concrete state and operands that meet them, clause by clause. -/

namespace Sys2Proof.Tests

open Sys2Proof.Machine

/-! ## Helpers -/

/-- The state after an operation (an operation always completes, 60_exceptions.md R230). -/
def after (i : Instr) (s : State) : State :=
  match exec i s with
  | .next t => t
  | .fault _ => s
  | .refused _ => s

/-- The response given last: `rdata`, `rflag`. -/
def answer (s : State) : Word × Bool :=
  match s.responses.getLast? with
  | some r => (r.rdata, r.rflag)
  | none => (0#32, false)

/-- The bank event record given last. -/
def bankOf (s : State) : Option BankEvent :=
  match s.responses.getLast? with
  | some ⟨_, _, .bank r⟩ => some r
  | _ => none

/-- The tick event record given last. -/
def tickOf (s : State) : Option TickEvent :=
  match s.responses.getLast? with
  | some ⟨_, _, .tick r⟩ => some r
  | _ => none

/-- `s` with the port values `wdata`, `now`. -/
def timed (s : State) (wdata now : Nat) : State :=
  { s with ports := ⟨BitVec.ofNat 32 wdata, BitVec.ofNat 64 now, 0#128, 0#32⟩ }

/-- `s` with the port values `raw_btn` (two banks), `now`. -/
def buttons (s : State) (b0 b1 now : Nat) : State :=
  { s with ports := ⟨0#32, BitVec.ofNat 64 now, BitVec.ofNat 128 (b0 + 256 * b1), 0#32⟩ }

/-- `s` with the port values `raw_enc = A | B<<8 | S<<16`, `now`. -/
def lines (s : State) (a b sw now : Nat) : State :=
  { s with ports := ⟨0#32, BitVec.ofNat 64 now, 0#128, BitVec.ofNat 32 (a + 256 * b + 65536 * sw)⟩ }

/-- The reset state with filter 0 as given. -/
def withFilter (x : Filter) : State := { State.reset with dbf := [x] }

/-- The reset state with EDS registers changed. -/
def withEds (d : Eds) : State := { State.reset with eds := d }

/-- The reset state with QED registers changed. -/
def withQed (q : Qed) : State := { State.reset with qed := q }

/-- EDS registers with the slots (pin 3) and (pin 9) bound, and a debounce window of 20 ms. -/
def eds0 : Eds :=
  { Eds.reset Params.standard with
    debounce := 20#16, nbind := 2#8
    slots := ⟨false, 3#8⟩ :: ⟨false, 9#8⟩ :: List.replicate 6 Slot.reset }

/-- QED registers with encoder 0 as given and the last tick at 100. -/
def qed0 (x : Encoder) : Qed :=
  { Qed.reset Params.standard with lasttick := 100#64, encs := x :: List.replicate 7 Encoder.reset }

/-- The reset state with the command word `w` presented next. -/
def posted (s : State) (w : CommandWord) (ports : Ports) : State := { s with pending := [.command w ports] }

/-- Filter 0 as given, an input and a time on the ports. -/
def dbf0 (x : Filter) (input now : Nat) : State := timed (withFilter x) input now

/-! ## WellFormed: the standard parameters are legal, and each clause of 00_scope.md R6 refuses a value -/

theorem test_standard_legal : Params.standard.Legal := by decide
theorem test_refuses_tw : ¬ ({ Params.standard with tw := 15 } : Params).Legal := by decide
theorem test_refuses_nf : ¬ ({ Params.standard with nf := 17 } : Params).Legal := by decide
theorem test_refuses_vw : ¬ ({ Params.standard with vw := 33 } : Params).Legal := by decide
theorem test_refuses_ww : ¬ ({ Params.standard with ww := 17 } : Params).Legal := by decide
theorem test_refuses_nb : ¬ ({ Params.standard with nb := 0 } : Params).Legal := by decide
theorem test_refuses_nslot : ¬ ({ Params.standard with nslot := 255 } : Params).Legal := by decide
theorem test_refuses_ne : ¬ ({ Params.standard with ne := 9 } : Params).Legal := by decide
theorem test_refuses_cw : ¬ ({ Params.standard with cw := 1 } : Params).Legal := by decide
theorem test_refuses_tVfast : ¬ ({ Params.standard with tVfast := 2 ^ 32, tFast := 2 ^ 32 } : Params).Legal := by decide
theorem test_refuses_stepVfast : ¬ ({ Params.standard with stepVfast := 32768 } : Params).Legal := by decide
theorem test_refuses_tFast : ¬ ({ Params.standard with tFast := 4 } : Params).Legal := by decide
theorem test_refuses_stepFast : ¬ ({ Params.standard with stepFast := 0 } : Params).Legal := by decide
theorem test_refuses_swDebounce : ¬ ({ Params.standard with swDebounce := 65536 } : Params).Legal := by decide
theorem test_refuses_encLpt : ¬ ({ Params.standard with encLpt := 256 } : Params).Legal := by decide

/-! ## Decode: one word of every operation, written out from the opcode map of R93 -/

theorem test_decode_nop : decode 0b0000000000000000#16 = .ok .nop := by decide
theorem test_decode_nop_any_k : decode 0b0000000010101011#16 = .ok .nop := by decide
theorem test_decode_rd : decode 0b0000000110010000#16 = .ok (.rd 0x90#8) := by decide
theorem test_decode_wr : decode 0b0000001010000001#16 = .ok (.wr 0x81#8) := by decide
theorem test_decode_rst : decode 0b0000001100000000#16 = .ok .rst := by decide
theorem test_decode_dbfInit : decode 0b0001000000001111#16 = .ok (.dbfInit 15#8) := by decide
theorem test_decode_dbfUpd : decode 0b0001000100000000#16 = .ok (.dbfUpd 0#8) := by decide
theorem test_decode_dbfStat : decode 0b0001001000000001#16 = .ok (.dbfStat 1#8) := by decide
theorem test_decode_edsInit : decode 0b0010000000000000#16 = .ok .edsInit := by decide
theorem test_decode_edsPoll : decode 0b0010000111111111#16 = .ok .edsPoll := by decide
theorem test_decode_edsBind : decode 0b0010001011001000#16 = .ok (.edsBind 200#8) := by decide
theorem test_decode_edsNext : decode 0b0010001100000000#16 = .ok .edsNext := by decide
theorem test_decode_qedInit : decode 0b0011000000000000#16 = .ok .qedInit := by decide
theorem test_decode_qedUpd : decode 0b0011000100000000#16 = .ok .qedUpd := by decide
theorem test_decode_qedRdacc : decode 0b0011001000000111#16 = .ok (.qedRdacc 7#8) := by decide
theorem test_decode_qedRdabs : decode 0b0011001100000010#16 = .ok (.qedRdabs 2#8) := by decide
theorem test_decode_qedRdmode : decode 0b0011010000000011#16 = .ok (.qedRdmode 3#8) := by decide
theorem test_decode_qedRdtrn : decode 0b0011010100000000#16 = .ok .qedRdtrn := by decide
theorem test_reserved_low : decode 0x0400#16 = .error (.reserved 0x04#8) := by decide
theorem test_reserved_high : decode 0xFFFF#16 = .error (.reserved 0xFF#8) := by decide
theorem test_table_word : decodeTableWord 16 0x22C8 = some (.edsBind 200#8) := by decide
theorem test_table_word_too_wide : decodeTableWord 16 0x10000 = none := by decide

/-! ## The command port and the common operations (R14, R110 to R114, V30) -/

/-- R94: a reserved word is performed as a no-op with a zero response. -/
theorem test_reserved_step :
    step { State.reset with pending := [.command 0x36FF#16 Ports.zero] } =
      .next { State.reset with responses := [Response.zero] } := rfl

/-- A word presented by `withFetchWord` is what the next step performs. -/
theorem test_fetched_step :
    step (State.reset.withFetchWord 16 0x0190) =
      .next { State.reset with responses := [Response.data 0xFF#32] } := rfl

theorem test_nop_response : answer (after .nop State.reset) = (0#32, false) := by decide
theorem test_rd_cur : answer (after (.rd 0x90#8) State.reset) = (0xFF#32, false) := by decide
theorem test_rd_reserved : answer (after (.rd 0x92#8) State.reset) = (0#32, false) := by decide

/-- V30 rows 7, 8: a value of 300 is clamped to 255. -/
theorem test_wr_clamps : (after (.wr 0x81#8) (timed State.reset 300 0)).eds.repdly = 255#8 := by decide

/-- V30 rows 13 to 15: the mode byte and the mode it starts in. -/
theorem test_wr_nmodes : ((after (.wr 0xC9#8) (timed State.reset 0x83 0)).qed.enc 1).mode = 1#8 := by decide

/-- V30 rows 26 to 30. -/
theorem test_rst : (after .rst (withEds eds0)).eds = Eds.reset Params.standard := by decide

/-! ## DBF (R121, R122, R126, R129(c)) -/

/-- The example of R121. -/
theorem test_dbf_init : (after (.dbfInit 0#8) (timed State.reset 1 0)).filter 0 = ⟨.holder, 0#16, 1#32, 1#32, 0#64, false⟩ := by
  decide

/-- The example of R122. -/
theorem test_dbf_upd_starts :
    (after (.dbfUpd 0#8) (timed (withFilter ⟨.holder, 20#16, 0#32, 0#32, 0#64, false⟩) 1 105)).filter 0 =
      ⟨.holder, 20#16, 0#32, 1#32, 105#64, true⟩ := by decide

/-- R129(c): a timer started at 0xFFFFFFF0 with a window of 20 expires at 4. -/
theorem test_dbf_upd_wraps :
    answer (after (.dbfUpd 0#8) (timed (withFilter ⟨.holder, 20#16, 0#32, 1#32, 0xFFFFFFF0#64, true⟩) 1 4)) =
      (1#32, false) := by decide

/-- R126: an expired timer commits at the next `DBF.UPD`, not in `DBF.STAT`. -/
theorem test_dbf_stat :
    answer (after (.dbfStat 0#8) (timed (withFilter ⟨.holder, 20#16, 0#32, 1#32, 0#64, true⟩) 1 500)) = (0#32, false) := by
  decide

/-! ## EDS (R143, R151, R156, R157, R160) -/

/-- The example of R143: the two deliveries. -/
theorem test_eds_init :
    (bankOf (after .edsInit (buttons (withEds eds0) 0xFF 0xFD 1000))).map BankEvent.deliveries =
      some [⟨0, .init, false, 0x01#5⟩, ⟨1, .init, false, 0x00#5⟩] := by decide

/-- The second poll of R160: the commit, with its delivery 0x02. -/
theorem test_eds_poll_commits :
    (bankOf (after .edsPoll
      (buttons (withEds { eds0 with pend := [0xF7#8, 0xFF#8], debt0 := 1005#64, debrun := true }) 0xF7 0xFF 1025))).map
        BankEvent.deliveries = some [⟨0, .check, false, 0x02#5⟩, ⟨1, .check, false, 0x01#5⟩] := by decide

/-- R159(d): repeat and long-press in one poll give the code 0x18. -/
theorem test_eds_poll_repeats :
    (bankOf (after .edsPoll
      (buttons (withEds { eds0 with cur := [0xF7#8, 0xFF#8], repdly := 3#8, repint := 10#8, lpdly := 3#8, lparm := true })
        0xF7 0xFF 300))).map BankEvent.deliveries =
      some [⟨0, .check, false, 0x18#5⟩, ⟨1, .check, false, 0x01#5⟩] := by decide

/-- The example of R156. -/
theorem test_eds_bind : answer (after (.edsBind 3#8) State.reset) = (0#32, false) := by decide

/-- The example of R156: an out-of-range pin. -/
theorem test_eds_bind_refused : answer (after (.edsBind 200#8) State.reset) = (0xFFFFFFFF#32, false) := by decide

/-- The example of R157. -/
theorem test_eds_next : answer (after .edsNext (withEds { eds0 with cursor := 1#8 })) = (0x00000901#32, false) := by decide

theorem test_eds_next_wraps : (after .edsNext (withEds { eds0 with cursor := 1#8 })).eds.cursor = 0#8 := by decide

/-! ## QED (R173, R174, R181, R189, R194 to R197) -/

/-- The example of R173. -/
theorem test_qed_init : (after .qedInit (lines State.reset 0 0 0 100)).qed.lasttick = 100#64 := by decide

/-- Scenario S3: a trigger 3 ms after the previous one counts 5, with `QuickUp`. -/
theorem test_qed_upd_quick :
    ((after .qedUpd (lines (withQed (qed0 ⟨0#8, 1#32, 100#64, true, 0#8⟩)) 1 0 0 103)).qed.enc 0).count = 6#32 ∧
    (tickOf (after .qedUpd (lines (withQed (qed0 ⟨0#8, 1#32, 100#64, true, 0#8⟩)) 1 0 0 103))).map TickEvent.qup =
      some 1#8 := by decide

/-- Scenario S4: a switch latched as part of a long-press pattern gives no short press on release. -/
theorem test_qed_upd_release :
    (tickOf (after .qedUpd (lines (withQed { qed0 Encoder.reset with
      swcur := 1#8, lplatch := 1#8, swpend := 0#8, swt0 := 100#64, swrun := true }) 0 0 0 105))).map
        (fun r => (r.deact, r.shortp)) = some (1#8, 0#8) := by decide

/-- The example of R194. -/
theorem test_qed_rdacc :
    answer (after (.qedRdacc 0#8) (withQed (qed0 ⟨0#8, 0xFFFFFFFC#32, 0#64, false, 0#8⟩))) = (0xFFFFFFFC#32, false) := by
  decide

theorem test_qed_rdacc_resets :
    ((after (.qedRdacc 0#8) (withQed (qed0 ⟨0#8, 9#32, 0#64, false, 0#8⟩))).qed.enc 0).count = 0#32 := by decide

/-- The example of R195. -/
theorem test_qed_rdabs :
    answer (after (.qedRdabs 0#8) (withQed { qed0 ⟨0#8, 9#32, 0#64, false, 0#8⟩ with cntchg := 1#8 })) = (9#32, true) := by
  decide

/-- The example of R196. -/
theorem test_qed_rdmode :
    answer (after (.qedRdmode 0#8) (withQed { qed0 ⟨2#8, 0#32, 0#64, false, 2#8⟩ with modechg := 1#8 })) = (2#32, true) := by
  decide

/-- The example of R197. -/
theorem test_qed_rdtrn :
    answer (after .qedRdtrn (withQed { qed0 Encoder.reset with chgup := 1#8, chgqup := 1#8 })) = (0x00010001#32, false) := by
  decide

/-! ## The assembler (R97 to R99) -/

/-- The example of R98. -/
theorem test_assemble_line :
    assembleLine "DBF.UPD 0, wdata=1, now=105 ; comment".toList =
      some [.command 0x1100#16 ⟨1#32, 105#64, 0#128, 0#32⟩] := by decide

/-- The example of R98: a register by its name. -/
theorem test_assemble_name :
    assembleLine "WR REPDLY, wdata=3".toList = some [.command 0x0281#16 ⟨3#32, 0#64, 0#128, 0#32⟩] := by decide

/-- The vector of R143 as a line. -/
theorem test_assemble_banks :
    assembleLine "initButtons raw=[0xFF,0xFD], now=1000".toList =
      some [.command 0x2000#16 ⟨0#32, 1000#64, 0xFDFF#128, 0#32⟩] := by decide

/-- The form of R98 with its comma, for an operation without an index (assumption log entry 22). -/
theorem test_assemble_comma :
    assembleLine "EDS.POLL, raw=[0xF7,0xFF], now=5".toList = assembleLine "EDS.POLL raw=[0xF7,0xFF], now=5".toList ∧
    assembleLine "EDS.POLL, raw=[0xF7,0xFF], now=5".toList =
      some [.command 0x2100#16 ⟨0#32, 5#64, 0xFFF7#128, 0#32⟩] ∧
    assembleLine "DBF.UPD, 0, now=5".toList = none := by decide

/-- Assumption log entries 21 and 23. -/
theorem test_assemble_ports :
    assembleLine "EDS.POLL raw=5".toList = some [.command 0x2100#16 ⟨0#32, 0#64, 0#128, 5#32⟩] ∧
    assembleLine "WR 0x81, wdata=1, wdata=2".toList = some [.command 0x0281#16 ⟨2#32, 0#64, 0#128, 0#32⟩] := by decide

theorem test_assemble_pseudo :
    assembleLine "SET.NMODES 2, 3, long".toList = some [.command 0x02CA#16 ⟨131#32, 0#64, 0#128, 0#32⟩] := by decide

/-- R71 ends at filter 15, bank 15 and encoder 7 (assumption log entry 19). -/
theorem test_assemble_last_register :
    assembleLine "RD CUR[15]".toList = some [.command 0x019F#16 Ports.zero] ∧ assembleLine "RD CUR[16]".toList = none := by
  decide

theorem test_assemble_refuses : assembleLine "DBF.UPD zero".toList = none := by decide

theorem test_word_text : wordText 0x1100#16 = "1100".toList := by decide

/-! ## Witnesses: states and operands that meet the hypotheses of the obligations -/

theorem witness_DecodeOfEncodeIsTheOperation : (Instr.edsBind 0xFF#8).wellFormed = true := by decide

theorem witness_IgnoredIndexFieldHas256Encodings :
    decode 0x01FF#16 = .ok (.rd 0xFF#8) ∧ decode 0x03FF#16 = .ok .rst ∧ decode 0x0300#16 = .ok .rst := by decide

/-- The opcodes at both ends of each reserved range, and the operations next to them. -/
theorem witness_PrintedAndReservedWordsDecode :
    ((opField 0x0400#16).toNat = 0x04 ∧ (opField 0x0FFF#16).toNat = 0x0F ∧ (opField 0x1300#16).toNat = 0x13 ∧
      (opField 0x1FFF#16).toNat = 0x1F ∧ (opField 0x2400#16).toNat = 0x24 ∧ (opField 0x2FFF#16).toNat = 0x2F ∧
      (opField 0x3600#16).toNat = 0x36 ∧ (opField 0xFFFF#16).toNat = 0xFF) ∧
    (decode 0x03FF#16 = .ok .rst ∧ decode 0x1000#16 = .ok (.dbfInit 0#8) ∧ decode 0x12FF#16 = .ok (.dbfStat 0xFF#8) ∧
      decode 0x2000#16 = .ok .edsInit ∧ decode 0x23FF#16 = .ok .edsNext ∧ decode 0x3000#16 = .ok .qedInit ∧
      decode 0x35FF#16 = .ok .qedRdtrn) := ⟨by decide, by decide⟩

/-- The ends of the ranges in which the scaled byte is the nearest multiple. -/
theorem witness_PseudoInstructionsScaleMilliseconds :
    (50 ≤ 50 ∧ 50 < 25550 ∧ 50 ≤ 25549 ∧ 25549 < 25550 ∧ q100 50 = 1 ∧ q100 25549 = 255) ∧
    (5 ≤ 5 ∧ 5 < 2555 ∧ 5 ≤ 2554 ∧ 2554 < 2555 ∧ q10 5 = 1 ∧ q10 2554 = 255) := by decide

/-- The ends of the ranges, whatever the ports hold. -/
theorem witness_ReservedOpcodesChangeNothing :
    (∀ w, (posted State.reset w ⟨7#32, 8#64, 9#128, 10#32⟩).pending = [.command w ⟨7#32, 8#64, 9#128, 10#32⟩]) ∧
    (0x04 ≤ (opField 0x0400#16).toNat ∧ (opField 0x0FFF#16).toNat ≤ 0x0F) ∧
    (0x13 ≤ (opField 0x1300#16).toNat ∧ (opField 0x1FFF#16).toNat ≤ 0x1F) ∧
    (0x24 ≤ (opField 0x2400#16).toNat ∧ (opField 0x2FFF#16).toNat ≤ 0x2F) ∧ 0x36 ≤ (opField 0x3600#16).toNat := by
  refine ⟨fun _ => rfl, ?_⟩
  decide

theorem witness_StepPerformsTheDecodedOperation :
    (posted (withEds eds0) 0x2103#16 Ports.zero).pending = [.command 0x2103#16 Ports.zero] ∧
      decode 0x2103#16 = .ok .edsPoll ∧ Instr.edsPoll.wellFormed = true := by decide

theorem witness_EveryCommandCompletesWithOneResponse :
    (posted (withEds eds0) 0xFFFF#16 Ports.zero).pending = [.command 0xFFFF#16 Ports.zero] := by decide

theorem witness_HardwareResetResetsEveryRegister :
    ({ withEds eds0 with pending := [.hardReset, .command 0#16 Ports.zero] } : State).pending =
      [.hardReset, .command 0#16 Ports.zero] := by decide

theorem witness_ResetValuesOfEveryRegister :
    (withEds eds0).params = Params.standard ∧ exec .rst (withEds eds0) = .next (after .rst (withEds eds0)) ∧
      ∃ t, step { withEds eds0 with pending := [.hardReset] } = .next t := ⟨by decide, rfl, _, rfl⟩

theorem witness_OperandsAreCutToTheirWidths :
    State.reset.params.Legal ∧ (0xFFFFFFFF#64).toNat < 2 ^ State.reset.params.tw ∧ 2 ^ 32 - 1 < 2 ^ State.reset.params.tw := by
  decide

theorem witness_VectorsAreUnpackedByBankAndPlane :
    (buttons State.reset 0x80 0x01 0).params.Legal ∧ 1 < (buttons State.reset 0x80 0x01 0).params.nb := by decide

theorem witness_RstResetsEveryRegister :
    (withEds eds0).Sized ∧ (withEds eds0).BindingOk ∧ exec (.edsBind 5#8) (withEds eds0) =
      .next (after (.edsBind 5#8) (withEds eds0)) ∧ exec .rst (withEds eds0) = .next (after .rst (withEds eds0)) :=
  ⟨by decide, by decide, rfl, rfl⟩

/-- One filter, two banks, eight encoders: the numbers at the ends of every range. -/
theorem witness_RdReturnsTheNumberedRegister :
    State.reset.params.Legal ∧ 0 < State.reset.params.nf ∧ 1 < State.reset.params.nb ∧ 7 < State.reset.params.ne ∧
    ((0x40#8).toNat = 0x40 + 4 * 0 ∧ (0x41#8).toNat = 0x41 + 4 * 0 ∧ (0x42#8).toNat = 0x42 + 4 * 0 ∧
      (0x91#8).toNat = 0x90 + 1 ∧ (0xCF#8).toNat = 0xC8 + 7) ∧
    ((0x3F#8).toNat < 0x40 ∧ (0x7F#8).toNat = 0x43 + 4 * 15 ∧ 0x40 + 4 * State.reset.params.nf ≤ (0x44#8).toNat ∧
      0x90 + State.reset.params.nb ≤ (0x92#8).toNat ∧ (0xBF#8).toNat ≤ 0xBF ∧ 0xC5 ≤ (0xC5#8).toNat ∧
      0xC8 + State.reset.params.ne ≤ (0xD0#8).toNat) := by decide

/-- `WR 0x40` with the codes at the ends of the two cases. -/
theorem witness_WrWritesTheNumberedRegister :
    (timed State.reset 2 0).params.Legal ∧ (timed State.reset 0 0).ports.wdata.toNat ≤ 2 ∧
    (timed State.reset 2 0).ports.wdata.toNat ≤ 2 ∧ 2 < (timed State.reset 3 0).ports.wdata.toNat ∧
    2 < (timed State.reset 0xFFFFFFFF 0).ports.wdata.toNat ∧ 0 < State.reset.params.nf ∧ 7 < State.reset.params.ne := by
  decide

theorem witness_WrToReadOnlyOrReservedIsIgnored :
    State.reset.params.Legal ∧ (0x42#8).toNat = 0x42 + 4 * 0 ∧ 0 < State.reset.params.nf ∧ (0x84#8).toNat = 0x84 ∧
    (0x91#8).toNat = 0x90 + 1 ∧ 1 < State.reset.params.nb ∧ (0x00#8).toNat < 0x40 ∧
    0xC8 + State.reset.params.ne ≤ (0xFF#8).toNat := by decide

/-- Filter 0 exists and filter 1 does not. -/
theorem witness_DbfInitLoadsTheFilter :
    (0#8).toNat < (timed State.reset 0x1FF 0).params.nf ∧ (timed State.reset 0x1FF 0).params.nf ≤ (1#8).toNat := by decide

theorem witness_DbfStatAndUnselectedInstances :
    (0#8).toNat < State.reset.params.nf ∧ State.reset.params.nf ≤ (1#8).toNat ∧ State.reset.params.nf ≤ (255#8).toNat := by
  decide

theorem witness_HolderStepByCases_equal : ∃ s : State,
    0 < s.params.nf ∧ (s.filter 0).policy = .holder ∧ scalarOf s = (s.filter 0).out := by
  refine ⟨dbf0 ⟨.holder, 20#16, 1#32, 0#32, 5#64, true⟩ 0x101 24, ?_⟩
  repeat' apply And.intro
  all_goals decide

theorem witness_HolderStepByCases_starts : ∃ s : State,
    0 < s.params.nf ∧ (s.filter 0).policy = .holder ∧ scalarOf s ≠ (s.filter 0).out ∧ (s.filter 0).run = false ∧
      (s.filter 0).window ≠ 0#16 := by
  refine ⟨dbf0 ⟨.holder, 1#16, 0#32, 0#32, 0#64, false⟩ 1 105, ?_⟩
  repeat' apply And.intro
  all_goals decide

theorem witness_HolderStepByCases_restarts : ∃ s : State,
    0 < s.params.nf ∧ (s.filter 0).policy = .holder ∧ scalarOf s ≠ (s.filter 0).out ∧
      scalarOf s ≠ (s.filter 0).cand ∧ (s.filter 0).run = true ∧ (s.filter 0).window = 0#16 := by
  refine ⟨dbf0 ⟨.holder, 0#16, 0#32, 2#32, 0#64, true⟩ 1 105, ?_⟩
  repeat' apply And.intro
  all_goals decide

theorem witness_HolderStepByCases_waits : ∃ s : State,
    0 < s.params.nf ∧ (s.filter 0).policy = .holder ∧ scalarOf s ≠ (s.filter 0).out ∧ (s.filter 0).run = true ∧
      scalarOf s = (s.filter 0).cand ∧ elapsed s.params (nowOf s) (s.filter 0).t0 < (s.filter 0).window.toNat := by
  refine ⟨dbf0 ⟨.holder, 20#16, 0#32, 1#32, 5#64, true⟩ 1 24, ?_⟩
  repeat' apply And.intro
  all_goals decide

theorem witness_HolderStepByCases_commits : ∃ s : State,
    0 < s.params.nf ∧ (s.filter 0).policy = .holder ∧ scalarOf s ≠ (s.filter 0).out ∧ (s.filter 0).run = true ∧
      scalarOf s = (s.filter 0).cand ∧ (s.filter 0).window.toNat ≤ elapsed s.params (nowOf s) (s.filter 0).t0 := by
  refine ⟨dbf0 ⟨.holder, 20#16, 0#32, 1#32, 5#64, true⟩ 1 25, ?_⟩
  repeat' apply And.intro
  all_goals decide

theorem witness_DelayerStepByCases_changes : ∃ s u : State,
    (0 < s.params.nf ∧ (s.filter 0).policy = .delayer ∧ scalarOf s ≠ (s.filter 0).cand ∧ (s.filter 0).window ≠ 0#16) ∧
    (0 < u.params.nf ∧ (u.filter 0).policy = .delayer ∧ scalarOf u ≠ (u.filter 0).cand ∧ (u.filter 0).window = 0#16) := by
  refine ⟨dbf0 ⟨.delayer, 1#16, 0#32, 1#32, 5#64, true⟩ 0 24, dbf0 ⟨.delayer, 0#16, 0#32, 0#32, 0#64, false⟩ 1 24, ?_⟩
  repeat' apply And.intro
  all_goals decide

theorem witness_DelayerStepByCases_stays : ∃ s u : State,
    (0 < s.params.nf ∧ (s.filter 0).policy = .delayer ∧ scalarOf s = (s.filter 0).cand ∧ (s.filter 0).run = false) ∧
    (0 < u.params.nf ∧ (u.filter 0).policy = .delayer ∧ scalarOf u = (u.filter 0).cand ∧ (u.filter 0).run = true ∧
      elapsed u.params (nowOf u) (u.filter 0).t0 < (u.filter 0).window.toNat) := by
  refine ⟨dbf0 ⟨.delayer, 20#16, 0#32, 0#32, 5#64, false⟩ 0 24, dbf0 ⟨.delayer, 20#16, 0#32, 1#32, 5#64, true⟩ 1 24, ?_⟩
  repeat' apply And.intro
  all_goals decide

theorem witness_DelayerStepByCases_commits : ∃ s : State,
    0 < s.params.nf ∧ (s.filter 0).policy = .delayer ∧ scalarOf s = (s.filter 0).cand ∧ (s.filter 0).run = true ∧
      (s.filter 0).window.toNat ≤ elapsed s.params (nowOf s) (s.filter 0).t0 := by
  refine ⟨dbf0 ⟨.delayer, 20#16, 0#32, 1#32, 5#64, true⟩ 1 25, ?_⟩
  repeat' apply And.intro
  all_goals decide

theorem witness_BlankerStepByCases_hides : ∃ s : State,
    0 < s.params.nf ∧ (s.filter 0).policy = .blanker ∧ (s.filter 0).run = true ∧
      elapsed s.params (nowOf s) (s.filter 0).t0 < (s.filter 0).window.toNat := by
  refine ⟨dbf0 ⟨.blanker, 20#16, 1#32, 0#32, 5#64, true⟩ 0 24, ?_⟩
  repeat' apply And.intro
  all_goals decide

theorem witness_BlankerStepByCases_looks : ∃ s u : State,
    (0 < s.params.nf ∧ (s.filter 0).policy = .blanker ∧ (s.filter 0).run = false ∧ scalarOf s = (s.filter 0).out) ∧
    (0 < u.params.nf ∧ (u.filter 0).policy = .blanker ∧
      (u.filter 0).window.toNat ≤ elapsed u.params (nowOf u) (u.filter 0).t0 ∧ scalarOf u ≠ (u.filter 0).out) := by
  refine ⟨dbf0 ⟨.blanker, 20#16, 1#32, 0#32, 5#64, false⟩ 1 24, dbf0 ⟨.blanker, 20#16, 1#32, 0#32, 5#64, true⟩ 0 25, ?_⟩
  repeat' apply And.intro
  all_goals decide

theorem witness_ZeroWindowPassesTheInputThrough : ∃ s u v : State,
    (0 < s.params.nf ∧ (s.filter 0).Coherent ∧ (s.filter 0).window = 0#16 ∧ (s.filter 0).policy = .holder) ∧
    (0 < u.params.nf ∧ (u.filter 0).Coherent ∧ (u.filter 0).window = 0#16 ∧ (u.filter 0).policy = .delayer) ∧
    (0 < v.params.nf ∧ (v.filter 0).Coherent ∧ (v.filter 0).window = 0#16 ∧ (v.filter 0).policy = .blanker) := by
  refine ⟨dbf0 ⟨.holder, 0#16, 0#32, 1#32, 5#64, true⟩ 1 5, dbf0 ⟨.delayer, 0#16, 1#32, 1#32, 5#64, false⟩ 0 5,
    dbf0 ⟨.blanker, 0#16, 1#32, 7#32, 5#64, true⟩ 0 5, ?_⟩
  repeat' apply And.intro
  all_goals decide

theorem witness_HolderAndDelayerGiveTheSameOutputs : ∃ s : State,
    s.Sized ∧ (0#8).toNat < s.params.nf ∧ (s.filter 0).run = false ∧ (s.filter 0).cand = (s.filter 0).out := by
  refine ⟨dbf0 ⟨.blanker, 20#16, 1#32, 1#32, 5#64, false⟩ 0 0, ?_⟩
  repeat' apply And.intro
  all_goals decide

/-- Two inputs that differ above VW only, at different times. -/
theorem witness_ConstantInputMovesTheOutputAtMostOnce : ∃ (s : State) (inputs : List Ports) (v : Word),
    s.Sized ∧ (0#8).toNat < s.params.nf ∧ inputs.length = 2 ∧ ∀ p ∈ inputs, keepLow s.params.vw p.wdata = v := by
  refine ⟨dbf0 ⟨.holder, 20#16, 0#32, 0#32, 0#64, false⟩ 0 0,
    [⟨1#32, 5#64, 0#128, 0#32⟩, ⟨257#32, 25#64, 0#128, 0#32⟩], 1#32, ?_⟩
  repeat' apply And.intro
  all_goals decide

theorem witness_EdsInitTakesTheVectorAsCommitted : ∃ s : State,
    1 < s.eds.nbind.toNat ∧ (s.eds.slot 0).byp = false ∧ (s.eds.slot 0).pin.toNat < s.params.npin ∧
      (s.eds.slot 1).byp = true := by
  refine ⟨withEds { eds0 with slots := ⟨false, 15#8⟩ :: ⟨true, 200#8⟩ :: List.replicate 6 Slot.reset }, ?_⟩
  repeat' apply And.intro
  all_goals decide

theorem witness_PollDebouncesTheWholeVector_equal : ∃ s : State, rawBanksOf s = s.eds.cur := by
  refine ⟨buttons (withEds { eds0 with debrun := true, pend := [0xF7#8, 0xFF#8] }) 0xFF 0xFF 1030, ?_⟩
  decide

theorem witness_PollDebouncesTheWholeVector_starts : ∃ s : State,
    rawBanksOf s ≠ s.eds.cur ∧ s.eds.debrun = false ∧
      elapsed s.params (nowOf s) (after .edsPoll s).eds.debt0 < s.eds.debounce.toNat := by
  refine ⟨buttons (withEds eds0) 0xFF 0xFE 1005, ?_⟩
  repeat' apply And.intro
  all_goals decide

theorem witness_PollDebouncesTheWholeVector_waits : ∃ s : State,
    rawBanksOf s ≠ s.eds.cur ∧ s.eds.debrun = true ∧ rawBanksOf s = s.eds.pend ∧
      elapsed s.params (nowOf s) (after .edsPoll s).eds.debt0 < s.eds.debounce.toNat := by
  refine ⟨buttons (withEds { eds0 with debrun := true, pend := [0xF7#8, 0xFF#8], debt0 := 1005#64 }) 0xF7 0xFF 1024, ?_⟩
  repeat' apply And.intro
  all_goals decide

theorem witness_PollDebouncesTheWholeVector_commits : ∃ s : State,
    rawBanksOf s ≠ s.eds.cur ∧ s.eds.debrun = true ∧ rawBanksOf s = s.eds.pend ∧
      s.eds.debounce.toNat ≤ elapsed s.params (nowOf s) (after .edsPoll s).eds.debt0 := by
  refine ⟨buttons (withEds { eds0 with debrun := true, pend := [0xF7#8, 0xFF#8], debt0 := 1005#64 }) 0xF7 0xFF 1025, ?_⟩
  repeat' apply And.intro
  all_goals decide

theorem witness_PollEdgesAndTimersOfACommit : ∃ s u : State,
    (s.Sized ∧ (after .edsPoll s).eds.cur ≠ s.eds.cur) ∧ (u.Sized ∧ (after .edsPoll u).eds.cur = u.eds.cur) := by
  refine ⟨buttons (withEds { eds0 with debounce := 0#16, lpdone := [0x10#8, 0#8], cur := [0xEF#8, 0xFF#8] }) 0xF7 0xFF 1025,
    buttons (withEds eds0) 0xF7 0xFF 1025, ?_⟩
  repeat' apply And.intro
  all_goals decide

/-- Disabled, waiting for the start delay (one short of it, and at it), and in the interval phase (likewise). -/
theorem witness_PollRepeatTimer : ∃ s u v x y : State,
    (s.Sized ∧ s.eds.repdly = 0#8 ∧ s.eds.repint ≠ 0#8 ∧ (after .edsPoll s).eds.cur = s.eds.cur) ∧
    (u.Sized ∧ u.eds.repdly ≠ 0#8 ∧ u.eds.repint ≠ 0#8 ∧ (after .edsPoll u).eds.cur = u.eds.cur ∧ u.eds.repph = false ∧
      elapsed u.params (nowOf u) u.eds.anchor + 1 = 100 * u.eds.repdly.toNat) ∧
    (v.Sized ∧ v.eds.repdly ≠ 0#8 ∧ v.eds.repint ≠ 0#8 ∧ (after .edsPoll v).eds.cur = v.eds.cur ∧ v.eds.repph = false ∧
      elapsed v.params (nowOf v) v.eds.anchor = 100 * v.eds.repdly.toNat) ∧
    (x.Sized ∧ x.eds.repdly ≠ 0#8 ∧ x.eds.repint ≠ 0#8 ∧ (after .edsPoll x).eds.cur = x.eds.cur ∧ x.eds.repph = true ∧
      elapsed x.params (nowOf x) x.eds.rept0 + 1 = 10 * x.eds.repint.toNat) ∧
    (y.Sized ∧ y.eds.repdly ≠ 0#8 ∧ y.eds.repint ≠ 0#8 ∧ (after .edsPoll y).eds.cur = y.eds.cur ∧ y.eds.repph = true ∧
      elapsed y.params (nowOf y) y.eds.rept0 = 10 * y.eds.repint.toNat) := by
  refine ⟨buttons (withEds { eds0 with repint := 10#8 }) 0xFF 0xFF 500,
    buttons (withEds { eds0 with repdly := 3#8, repint := 10#8 }) 0xFF 0xFF 299,
    buttons (withEds { eds0 with repdly := 3#8, repint := 10#8 }) 0xFF 0xFF 300,
    buttons (withEds { eds0 with repdly := 3#8, repint := 10#8, repph := true, rept0 := 300#64 }) 0xFF 0xFF 399,
    buttons (withEds { eds0 with repdly := 3#8, repint := 10#8, repph := true, rept0 := 300#64 }) 0xFF 0xFF 400, ?_⟩
  repeat' apply And.intro
  all_goals decide

/-- A committing poll with the timers enabled. -/
theorem witness_PollTimersOfACommittingPoll : ∃ s : State,
    s.Sized ∧ (after .edsPoll s).eds.cur ≠ s.eds.cur ∧ s.eds.repdly ≠ 0#8 ∧ s.eds.repint ≠ 0#8 ∧ s.eds.lpdly ≠ 0#8 ∧
      s.eds.lparm = true := by
  refine ⟨buttons (withEds { eds0 with debounce := 0#16, repdly := 3#8, repint := 10#8, lpdly := 3#8, lparm := true }) 0xF7 0xFF 500, ?_⟩
  repeat' apply And.intro
  all_goals decide

/-- Firing at the delay, one short of it, disarmed, disabled. -/
theorem witness_PollLongPressTimer : ∃ s u v x : State,
    (s.Sized ∧ (after .edsPoll s).eds.cur = s.eds.cur ∧ s.eds.lpdly ≠ 0#8 ∧ s.eds.lparm = true ∧
      100 * s.eds.lpdly.toNat = elapsed s.params (nowOf s) s.eds.anchor) ∧
    (u.Sized ∧ (after .edsPoll u).eds.cur = u.eds.cur ∧ u.eds.lpdly ≠ 0#8 ∧ u.eds.lparm = true ∧
      elapsed u.params (nowOf u) u.eds.anchor + 1 = 100 * u.eds.lpdly.toNat) ∧
    (v.Sized ∧ (after .edsPoll v).eds.cur = v.eds.cur ∧ v.eds.lparm = false) ∧
    (x.Sized ∧ (after .edsPoll x).eds.cur = x.eds.cur ∧ x.eds.lpdly = 0#8) := by
  refine ⟨buttons (withEds { eds0 with lpdly := 3#8, lparm := true, cur := [0xF7#8, 0xFF#8] }) 0xF7 0xFF 300,
    buttons (withEds { eds0 with lpdly := 3#8, lparm := true, cur := [0xF7#8, 0xFF#8] }) 0xF7 0xFF 299,
    buttons (withEds { eds0 with lpdly := 3#8 }) 0xFF 0xFF 300,
    buttons (withEds { eds0 with lparm := true }) 0xFF 0xFF 300, ?_⟩
  repeat' apply And.intro
  all_goals decide

theorem witness_PollDeliversOneStatusPerBoundSlot : ∃ s : State,
    1 < s.eds.nbind.toNat ∧ (s.eds.slot 0).byp = false ∧ (s.eds.slot 0).pin.toNat = 8 * 1 + 7 ∧ (s.eds.slot 1).byp = true := by
  refine ⟨withEds { eds0 with slots := ⟨false, 15#8⟩ :: ⟨true, 200#8⟩ :: List.replicate 6 Slot.reset }, ?_⟩
  repeat' apply And.intro
  all_goals decide

/-- A held line whose repeat and long-press fire in one poll. -/
def heldState : State :=
  buttons (withEds { eds0 with cur := [0xF7#8, 0xFF#8], repdly := 3#8, repint := 10#8, lpdly := 3#8, lparm := true }) 0xF7 0xFF 300

theorem witness_OnlySevenStatusCodesOccur : ∃ (t : State) (ev : BankEvent),
    exec .edsPoll heldState = .next t ∧ t.responses = heldState.responses ++ [⟨0#32, false, .bank ev⟩] ∧
      ev.deliveries.length = 2 := ⟨_, _, rfl, rfl, rfl⟩

theorem witness_LongIsMaskedByTheLongPressMask_fires :
    heldState.Sized ∧ 3 < heldState.params.npin ∧ ∃ (t : State) (ev : BankEvent), exec .edsPoll heldState = .next t ∧
      t.responses = heldState.responses ++ [⟨0#32, false, .bank ev⟩] ∧ lineBit ev.lng 3 = true :=
  ⟨by decide, by decide, _, _, rfl, rfl, rfl⟩

/-- Line 3 is held and marked, and another line is pressed and committed. -/
theorem witness_LongIsMaskedByTheLongPressMask_keeps : ∃ s : State,
    s.Sized ∧ 3 < s.params.npin ∧ lineBit s.eds.lpdone 3 = true ∧ lineBit (after .edsPoll s).eds.cur 3 = false ∧
      (after .edsPoll s).eds.cur ≠ s.eds.cur := by
  refine ⟨buttons (withEds { eds0 with debounce := 0#16, cur := [0xF7#8, 0xFF#8], lpdone := [0x08#8, 0#8] }) 0xF6 0xFF 500, ?_⟩
  repeat' apply And.intro
  all_goals decide

/-- A full table; pins 16 and 15 of a free one; a bypass tag of 255. -/
theorem witness_BindAppendsOrRefuses : ∃ s u v : State,
    s.eds.nbind.toNat = s.params.nslot ∧
    (u.ports.wdata.getLsbD 0 = false ∧ u.eds.nbind.toNat ≠ u.params.nslot ∧ 8 * u.params.nb ≤ (16#8).toNat ∧
      (15#8).toNat < 8 * u.params.nb) ∧
    (v.ports.wdata.getLsbD 0 = true ∧ v.eds.nbind.toNat ≠ v.params.nslot ∧ 8 * v.params.nb ≤ (255#8).toNat) := by
  refine ⟨withEds { eds0 with nbind := 8#8 }, withEds { eds0 with nbind := 7#8 }, timed (withEds eds0) 3 0, ?_⟩
  repeat' apply And.intro
  all_goals decide

theorem witness_NextGivesTheSlotAtTheCursor : ∃ s u v : State,
    s.eds.nbind = 0#8 ∧ (u.eds.nbind ≠ 0#8 ∧ u.eds.cursor.toNat + 1 ≠ u.eds.nbind.toNat) ∧
    (v.eds.nbind ≠ 0#8 ∧ v.eds.cursor.toNat + 1 = v.eds.nbind.toNat) := by
  refine ⟨State.reset, withEds eds0, withEds { eds0 with cursor := 1#8 }, ?_⟩
  repeat' apply And.intro
  all_goals decide

theorem witness_BindingTableIsAppendOnly :
    (posted (withEds eds0) 0x2205#16 Ports.zero).Sized ∧ (posted (withEds eds0) 0x2205#16 Ports.zero).BindingOk ∧
    decode 0x2205#16 ≠ .ok .rst ∧ ∃ t, step (posted (withEds eds0) 0x2205#16 Ports.zero) = .next t ∧
      t.eds.nbind ≠ (withEds eds0).eds.nbind := ⟨by decide, by decide, by decide, _, rfl, by decide⟩

theorem witness_QedInitTakesTheLinesAsSeen : ∃ s : State,
    0 < s.qed.encs.length ∧ 2 ≤ (s.qed.enc 0).nmodes.toNat % 128 ∧ 1 < s.qed.encs.length ∧
      ¬ 2 ≤ (s.qed.enc 1).nmodes.toNat % 128 := by
  refine ⟨withQed (qed0 ⟨130#8, 5#32, 0#64, true, 2#8⟩), ?_⟩
  repeat' apply And.intro
  all_goals decide

theorem witness_TickWithoutElapsedTimeIsSkipped : ∃ s : State,
    elapsed s.params (nowOf s) s.qed.lasttick = 0 ∧ planesOf s ≠ s.qed.prev := by
  refine ⟨lines (withQed (qed0 Encoder.reset)) 1 0 0 100, ?_⟩
  repeat' apply And.intro
  all_goals decide

/-- A processed tick, with the lines unchanged and with the lines changed. -/
theorem witness_ProcessedTickFrame : ∃ s u : State,
    (elapsed s.params (nowOf s) s.qed.lasttick ≠ 0 ∧ planesOf s = s.qed.prev) ∧
    (elapsed u.params (nowOf u) u.qed.lasttick ≠ 0 ∧ planesOf u ≠ u.qed.prev ∧ 7 < u.qed.encs.length) := by
  refine ⟨lines (withQed (qed0 Encoder.reset)) 0 0 0 101, lines (withQed (qed0 Encoder.reset)) 1 1 1 101, ?_⟩
  repeat' apply And.intro
  all_goals decide

/-- A rise of encoder 7's inverted line, and a fall of encoder 0, a half-cycle encoder. -/
theorem witness_PulseDirectionOfEachEncoder : ∃ s : State,
    s.Sized ∧ elapsed s.params (nowOf s) s.qed.lasttick ≠ 0 ∧ 7 < s.params.ne ∧
    (true = ((s.ports.rawEnc.getLsbD 7) ^^ (s.qed.inv.getLsbD 7)) ∧
      false = ((s.qed.prev.a.getLsbD 7) ^^ (s.qed.inv.getLsbD 7)) ∧ true = s.ports.rawEnc.getLsbD (8 + 7)) ∧
    (false = ((s.ports.rawEnc.getLsbD 0) ^^ (s.qed.inv.getLsbD 0)) ∧
      true = ((s.qed.prev.a.getLsbD 0) ^^ (s.qed.inv.getLsbD 0)) ∧ true = s.qed.half.getLsbD 0) := by
  refine ⟨lines (withQed { qed0 Encoder.reset with inv := 0x80#8, half := 0x01#8, prev := ⟨0#8, 0#8, 0x81#8⟩ }) 0 0x80 0 101, ?_⟩
  repeat' apply And.intro
  all_goals decide

/-- The intervals 4, 5, 9, 10 around the two thresholds, and a first trigger. -/
theorem witness_StepSizeAndCountOfEachEncoder :
    (∀ now ∈ [104, 105, 109, 110],
      (lines (withQed (qed0 ⟨0#8, 1#32, 100#64, true, 0#8⟩)) 1 0 0 now).Sized ∧
      elapsed Params.standard (nowOf (lines (withQed (qed0 ⟨0#8, 1#32, 100#64, true, 0#8⟩)) 1 0 0 now)) 100#64 = now - 100 ∧
      ((after .qedUpd (lines (withQed (qed0 ⟨0#8, 1#32, 100#64, true, 0#8⟩)) 1 0 0 now)).qed.enc 0).trigt =
        BitVec.ofNat 64 now) ∧
    ((lines (withQed (qed0 Encoder.reset)) 1 1 0 101).Sized ∧
      ((lines (withQed (qed0 Encoder.reset)) 1 1 0 101).qed.enc 0).trigv = false) := ⟨by decide, by decide, by decide⟩

/-- Two states that agree on encoder 1 and differ elsewhere. -/
theorem witness_EncodersAreIndependent : ∃ (s s' t t' : State) (ev ev' : TickEvent),
    s.Sized ∧ s'.Sized ∧ s.params = s'.params ∧ 1 < s.params.ne ∧ nowOf s = nowOf s' ∧
    s.qed.lasttick = s'.qed.lasttick ∧ s.qed.enc 1 = s'.qed.enc 1 ∧ s.qed.enc 0 ≠ s'.qed.enc 0 ∧
    s.ports.rawEnc.getLsbD 1 = s'.ports.rawEnc.getLsbD 1 ∧
    s.ports.rawEnc.getLsbD (8 + 1) = s'.ports.rawEnc.getLsbD (8 + 1) ∧
    s.qed.prev.a.getLsbD 1 = s'.qed.prev.a.getLsbD 1 ∧ s.qed.inv.getLsbD 1 = s'.qed.inv.getLsbD 1 ∧
    s.qed.half.getLsbD 1 = s'.qed.half.getLsbD 1 ∧
    exec .qedUpd s = .next t ∧ t.responses = s.responses ++ [⟨0#32, false, .tick ev⟩] ∧
    exec .qedUpd s' = .next t' ∧ t'.responses = s'.responses ++ [⟨0#32, false, .tick ev'⟩] :=
  ⟨lines (withQed (qed0 Encoder.reset)) 3 0 0 103, lines (withQed (qed0 ⟨0#8, 9#32, 0#64, true, 0#8⟩)) 2 1 1 103, _, _, _, _,
    by decide, by decide, by decide, by decide, by decide, by decide, by decide, by decide, by decide, by decide, by decide,
    by decide, by decide, rfl, rfl, rfl, rfl⟩

/-- The pattern unchanged; a change that starts the timer; one short of the window; at the window. -/
theorem witness_SwitchesAreDebouncedAsOnePattern : ∃ s u v x : State,
    (elapsed s.params (nowOf s) s.qed.lasttick ≠ 0 ∧ (planesOf s).s = s.qed.swcur ∧
      (after .qedUpd s).qed.swcur = s.qed.swcur) ∧
    (elapsed u.params (nowOf u) u.qed.lasttick ≠ 0 ∧ (planesOf u).s ≠ u.qed.swcur ∧ u.qed.swrun = false ∧
      elapsed u.params (nowOf u) (after .qedUpd u).qed.swt0 < u.params.swDebounce) ∧
    (elapsed v.params (nowOf v) v.qed.lasttick ≠ 0 ∧ (planesOf v).s ≠ v.qed.swcur ∧ v.qed.swrun = true ∧
      (planesOf v).s = v.qed.swpend ∧ elapsed v.params (nowOf v) (after .qedUpd v).qed.swt0 + 1 = v.params.swDebounce) ∧
    (elapsed x.params (nowOf x) x.qed.lasttick ≠ 0 ∧ (planesOf x).s ≠ x.qed.swcur ∧ x.qed.swrun = true ∧
      (planesOf x).s = x.qed.swpend ∧ elapsed x.params (nowOf x) (after .qedUpd x).qed.swt0 = x.params.swDebounce ∧
      (after .qedUpd x).qed.swcur ≠ x.qed.swcur ∧ x.params.Legal) := by
  refine ⟨lines (withQed (qed0 Encoder.reset)) 0 0 0 101, lines (withQed (qed0 Encoder.reset)) 0 0 1 101,
    lines (withQed { qed0 Encoder.reset with swpend := 1#8, swt0 := 100#64, swrun := true }) 0 0 1 104,
    lines (withQed { qed0 Encoder.reset with swpend := 1#8, swt0 := 100#64, swrun := true }) 0 0 1 105, ?_⟩
  repeat' apply And.intro
  all_goals decide

/-- At the threshold, one short of it, disarmed, no switch held. -/
theorem witness_PatternLongPressLatches : ∃ s u v x : State,
    (elapsed s.params (nowOf s) s.qed.lasttick ≠ 0 ∧ (after .qedUpd s).qed.swcur = s.qed.swcur ∧ s.qed.qlparm = true ∧
      s.qed.swcur ≠ 0#8 ∧ 10 * s.params.encLpt = elapsed s.params (nowOf s) s.qed.patt0) ∧
    (elapsed u.params (nowOf u) u.qed.lasttick ≠ 0 ∧ (after .qedUpd u).qed.swcur = u.qed.swcur ∧
      elapsed u.params (nowOf u) u.qed.patt0 + 1 = 10 * u.params.encLpt) ∧
    (elapsed v.params (nowOf v) v.qed.lasttick ≠ 0 ∧ (after .qedUpd v).qed.swcur = v.qed.swcur ∧ v.qed.qlparm = false) ∧
    (elapsed x.params (nowOf x) x.qed.lasttick ≠ 0 ∧ (after .qedUpd x).qed.swcur = x.qed.swcur ∧ x.qed.swcur = 0#8) := by
  refine ⟨lines (withQed { qed0 Encoder.reset with swcur := 1#8, qlparm := true }) 0 0 1 500,
    lines (withQed { qed0 Encoder.reset with swcur := 1#8, qlparm := true }) 0 0 1 499,
    lines (withQed { qed0 Encoder.reset with swcur := 1#8 }) 0 0 1 500,
    lines (withQed { qed0 Encoder.reset with qlparm := true }) 0 0 0 500, ?_⟩
  repeat' apply And.intro
  all_goals decide

/-- A tick in which switch 0 is released, for an encoder 0 with the mode byte and mode given. -/
def released (nmodes mode wrap : Byte) : State :=
  lines (withQed { qed0 ⟨nmodes, 0#32, 0#64, false, mode⟩ with
    swcur := 1#8, swt0 := 100#64, swrun := true, modewrap := wrap }) 0 0 0 105

/-- A tick in which the long-press of switch 0 fires. -/
def pressedLong (nmodes mode : Byte) : State :=
  lines (withQed { qed0 ⟨nmodes, 0#32, 0#64, false, mode⟩ with swcur := 1#8, qlparm := true }) 0 0 1 600

/-- Mode counts 0, 1, 1 with the flag, 2 and 127; a trigger by short press and by long press, and none; below the count,
at it with wrap and without. -/
theorem witness_ModeCyclingOfEachEncoder :
    (∀ n ∈ [0#8, 1#8, 2#8, 127#8, 128#8, 129#8, 130#8],
      (released n 1#8 0#8).Sized ∧ elapsed Params.standard (nowOf (released n 1#8 0#8)) 100#64 ≠ 0) ∧
    (tickOf (after .qedUpd (released 2#8 1#8 0#8))).map (fun ev => ev.shortp.getLsbD 0) = some true ∧
    (tickOf (after .qedUpd (released 130#8 1#8 0#8))).map (fun ev => ev.longp.getLsbD 0) = some false ∧
    (tickOf (after .qedUpd (pressedLong 130#8 1#8))).map (fun ev => ev.longp.getLsbD 0) = some true ∧
    ((1#8).toNat < (2#8).toNat % 128 ∧ (2#8).toNat % 128 ≤ (2#8).toNat ∧
      (released 2#8 2#8 1#8).qed.modewrap.getLsbD 0 = true ∧ (released 2#8 2#8 0#8).qed.modewrap.getLsbD 0 = false) := by
  decide

/-- Encoder 7 exists and encoder 8 does not (QED.RDACC, QED.RDABS, QED.RDMODE). -/
theorem witness_EncoderReads :
    (7#8).toNat < (withQed (qed0 Encoder.reset)).params.ne ∧ (withQed (qed0 Encoder.reset)).params.ne ≤ (8#8).toNat := by
  decide

theorem witness_CountsChangeOnlyByDecodeEvents : ∃ s t : State,
    s.Sized ∧ s.pending = [.command 0x3100#16 ⟨0#32, 101#64, 0#128, 1#32⟩] ∧ step s = .next t ∧ 0 < s.params.ne ∧
      decode 0x3100#16 ≠ .ok .rst ∧ decode 0x3100#16 ≠ .ok .qedInit ∧ decode 0x3100#16 ≠ .ok (.qedRdacc 0#8) ∧
      (t.qed.enc 0).count ≠ (s.qed.enc 0).count :=
  ⟨posted (withQed (qed0 Encoder.reset)) 0x3100#16 ⟨0#32, 101#64, 0#128, 1#32⟩, _, by decide, by decide, rfl, by decide,
    by decide, by decide, by decide, by decide⟩

theorem witness_UntimedOperationsIgnoreNow :
    Instr.edsNext ≠ .edsInit ∧ Instr.edsNext ≠ .edsPoll ∧ Instr.edsNext ≠ .qedInit ∧ Instr.edsNext ≠ .qedUpd ∧
      ∀ f, Instr.edsNext ≠ .dbfUpd f := ⟨by decide, by decide, by decide, by decide, fun _ => by intro h; cases h⟩

/-- Ports that differ in every unused bit. -/
theorem witness_UnusedPortBitsAreIgnored : ∃ (s : State) (q : Ports),
    s.params.Legal ∧ q ≠ s.ports ∧ q.wdata = s.ports.wdata ∧
    q.now.toNat % 2 ^ s.params.tw = s.ports.now.toNat % 2 ^ s.params.tw ∧
    (∀ b < s.params.npin, q.rawBtn.getLsbD b = s.ports.rawBtn.getLsbD b) ∧
    (∀ e < s.params.ne, q.rawEnc.getLsbD e = s.ports.rawEnc.getLsbD e ∧
      q.rawEnc.getLsbD (8 + e) = s.ports.rawEnc.getLsbD (8 + e) ∧
      q.rawEnc.getLsbD (16 + e) = s.ports.rawEnc.getLsbD (16 + e)) := by
  refine ⟨State.reset, ⟨0#32, 0xFFFFFFFF00000000#64, 0x10000#128, 0xFF000000#32⟩, ?_⟩
  repeat' apply And.intro
  all_goals decide

theorem witness_UnitsWriteOnlyTheirOwnRegisters :
    exec (.dbfUpd 0#8) State.reset = .next (after (.dbfUpd 0#8) State.reset) ∧
    exec .edsPoll (withEds eds0) = .next (after .edsPoll (withEds eds0)) ∧
    exec .qedUpd (lines State.reset 1 1 1 5) = .next (after .qedUpd (lines State.reset 1 1 1 5)) := ⟨rfl, rfl, rfl⟩

/-- The largest sizes. -/
theorem witness_ResetStateIsGood :
    (⟨64, 16, 32, 16, 16, 254, 8, 32, 5, 5, 10, 2, 5, 255⟩ : Params).Legal := by decide

/-- The states of the invariants' witnesses: an EDS operation, a filter update and a tick are presented. -/
def heldPosted : State := posted heldState 0x2100#16 heldState.ports
def filterPosted : State :=
  posted (withFilter ⟨.holder, 20#16, 0#32, 1#32, 5#64, true⟩) 0x1100#16 ⟨1#32, 25#64, 0#128, 0#32⟩
def tickPosted : State := posted (released 2#8 1#8 0#8) 0x3100#16 (released 2#8 1#8 0#8).ports

theorem witness_EveryStepKeepsSizesAndWidths :
    filterPosted.Sized ∧ filterPosted.InRange ∧ ∃ t, step filterPosted = .next t := ⟨by decide, by decide, _, rfl⟩

theorem witness_EveryStepKeepsFiltersCoherent :
    filterPosted.Sized ∧ filterPosted.FiltersCoherent ∧ ∃ t, step filterPosted = .next t := ⟨by decide, by decide, _, rfl⟩

theorem witness_EveryStepKeepsTheBindingTable :
    heldPosted.Sized ∧ heldPosted.BindingOk ∧ ∃ t, step heldPosted = .next t := ⟨by decide, by decide, _, rfl⟩

theorem witness_EveryStepKeepsTheLineMasks :
    heldPosted.Sized ∧ heldPosted.LinesOk ∧ ∃ t, step heldPosted = .next t := ⟨by decide, by decide, _, rfl⟩

theorem witness_EveryStepKeepsTheEncoderMasks :
    tickPosted.Sized ∧ tickPosted.MasksOk ∧ tickPosted.SwitchesOk ∧ ∃ t, step tickPosted = .next t :=
  ⟨by decide, by decide, by decide, _, rfl⟩

theorem witness_EveryStepKeepsModesLegal :
    tickPosted.Sized ∧ tickPosted.ModesLegal ∧ ∃ t, step tickPosted = .next t := ⟨by decide, by decide, _, rfl⟩

end Sys2Proof.Tests
end

section
/-! PROOFS of the statements on the scope of the model (00_scope.md): the operands and times of R9, R10 and R96, the
step of R14, its totality (R230), and the invariants at reset (R6, R63). -/

namespace Sys2Proof.Machine

/-! ## What a step does with a command -/

/-- A command whose word decodes: the port is sampled and the operation performed (R14, R91). -/
theorem step_of_decode_ok {s : State} {w : CommandWord} {ports : Ports} {rest : List HostEvent} {i : Instr}
    (hp : s.pending = .command w ports :: rest) (hd : decode w = .ok i) : step s = exec i (s.sample rest ports) := by
  simp only [step, hp, hd]

/-- A command whose word is rejected: the port is sampled and the zero response given (R94). -/
theorem step_of_decode_error {s : State} {w : CommandWord} {ports : Ports} {rest : List HostEvent} {e : DecodeError}
    (hp : s.pending = .command w ports :: rest) (hd : decode w = .error e) :
    step s = respond (s.sample rest ports) Response.zero := by
  simp only [step, hp, hd, reservedCommand]

/-- Whatever its word, a command is answered with one response, from a state that has sampled the port. -/
theorem step_command_respond {s : State} {w : CommandWord} {ports : Ports} {rest : List HostEvent}
    (hp : s.pending = .command w ports :: rest) :
    ∃ u r, step s = respond u r ∧ SameHost (s.sample rest ports) u := by
  cases hd : decode w with
  | ok i => rw [step_of_decode_ok hp hd]; exact exec_respond i _
  | error e => exact ⟨_, _, step_of_decode_error hp hd, SameHost.refl _⟩

/-! ## The reset state -/

theorem mem_dbf_resetWith {p : Params} {x : Filter} (h : x ∈ (State.resetWith p).dbf) : x = Filter.reset :=
  List.eq_of_mem_replicate h

theorem mem_encs_resetWith {p : Params} {x : Encoder} (h : x ∈ (State.resetWith p).qed.encs) : x = Encoder.reset :=
  List.eq_of_mem_replicate h

@[simp] theorem slot_reset (p : Params) (j : Nat) : (Eds.reset p).slot j = Slot.reset := by
  simp only [Eds.slot, Eds.reset, List.getD, List.getElem?_replicate]
  split <;> rfl

@[simp] theorem lpdone_reset_getD (p : Params) (b : Nat) : (Eds.reset p).lpdone.getD b 0#8 = 0#8 := by
  simp only [Eds.reset, List.getD, List.getElem?_replicate]
  split <;> rfl

theorem Filter.reset_inRange (p : Params) : Filter.reset.InRange p :=
  ⟨Nat.two_pow_pos _, Nat.two_pow_pos _, Nat.two_pow_pos _, Nat.two_pow_pos _⟩

theorem Encoder.reset_inRange (p : Params) : Encoder.reset.InRange p := ⟨keepSigned_zero _, Nat.two_pow_pos _⟩

/-- Every register file is made with as many entries as the parameters say. -/
theorem resetWith_sized {p : Params} (h : p.Legal) : (State.resetWith p).Sized :=
  ⟨h, List.length_replicate, List.length_replicate, List.length_replicate, List.length_replicate,
    List.length_replicate, List.length_replicate⟩

theorem resetWith_inRange (p : Params) : (State.resetWith p).InRange := by
  have hz (n : Nat) : 0 < 2 ^ n := Nat.two_pow_pos n
  refine ⟨fun x hx => ?_, hz _, hz _, hz _, hz _, hz _, hz _, hz _, fun x hx => ?_⟩
  · rw [mem_dbf_resetWith hx]; exact Filter.reset_inRange p
  · rw [mem_encs_resetWith hx]; exact Encoder.reset_inRange p

/-- A filter comes out of reset as a holder whose timer does not run. -/
theorem resetWith_filtersCoherent (p : Params) : (State.resetWith p).FiltersCoherent := by
  intro x hx
  rw [mem_dbf_resetWith hx]; decide

/-- No slot is in use, and all hold their reset value. -/
theorem resetWith_bindingOk (p : Params) : (State.resetWith p).BindingOk :=
  ⟨Nat.zero_le _, Nat.zero_lt_one, fun j _ hj => absurd hj (Nat.not_lt_zero j), fun j _ _ => slot_reset p j⟩

/-- No line has fired its long-press, and the debounce timer does not run. -/
theorem resetWith_linesOk (p : Params) : (State.resetWith p).LinesOk := by
  refine ⟨fun b _ => ?_, fun hrun => absurd hrun Bool.false_ne_true⟩
  rw [State.resetWith_eds, lpdone_reset_getD, BitVec.zero_and]

/-- Every mask over the encoders is zero. -/
theorem resetWith_masksOk (p : Params) : (State.resetWith p).MasksOk := by
  have hz : WithinEmask p 0#8 := BitVec.zero_and
  exact ⟨hz, hz, hz, hz, hz, hz, hz, hz, hz, hz, hz, hz, hz, hz, hz⟩

/-- Nothing is latched or flagged, and the switch timer does not run. -/
theorem resetWith_switchesOk (p : Params) : (State.resetWith p).SwitchesOk :=
  ⟨BitVec.zero_and, fun hrun => absurd hrun Bool.false_ne_true, BitVec.zero_and, BitVec.zero_and⟩

/-- Every encoder comes out of reset unused (`NMODES = 0`), in mode 0. -/
theorem resetWith_modesLegal (p : Params) : (State.resetWith p).ModesLegal := by
  intro x hx
  rw [mem_encs_resetWith hx]; decide

/-! ## The obligations -/

/-- Settles O7: a command is answered by `respond`, whatever its word, from a state that kept what the host gave. -/
theorem everyCommandCompletesWithOneResponse : Obligations.EveryCommandCompletesWithOneResponse := by
  intro s w ports rest hp
  obtain ⟨u, r, hstep, hparams, hports, hpending, hresponses⟩ := step_command_respond hp
  refine ⟨_, r, hstep.trans (respond_eq u r), ?_, hparams, hpending, hports⟩
  exact congrArg (· ++ [r]) hresponses

/-- Settles O11, from the laws of a cut value and of elapsed time, with the bounds R6 puts on TW and VW. -/
theorem operandsAreCutToTheirWidths : Obligations.OperandsAreCutToTheirWidths := by
  intro s hlegal
  obtain ⟨⟨-, htw⟩, -, ⟨-, hvw⟩, -⟩ := hlegal
  exact ⟨keepLow_toNat _ _ htw, keepLow_toNat _ _ hvw, rfl, fun now t hnow ht => elapsed_of_lt _ now t htw hnow ht,
    fun t d hd => elapsed_add _ t d htw hd⟩

/-- Settles O6: taking the command off the port is the state update that the statement writes out. -/
theorem stepPerformsTheDecodedOperation : Obligations.StepPerformsTheDecodedOperation := by
  intro s w ports rest i hp hd _
  exact step_of_decode_ok hp hd

/-- Settles O54: the reset state meets the invariants one by one; only the sizes rest on the parameters being legal. -/
theorem resetStateIsGood : Obligations.ResetStateIsGood := by
  intro p hlegal
  exact ⟨resetWith_sized hlegal, resetWith_inRange p, resetWith_filtersCoherent p, resetWith_bindingOk p,
    resetWith_linesOk p, resetWith_masksOk p, resetWith_switchesOk p, resetWith_modesLegal p⟩

end Sys2Proof.Machine
end

section
/-! PROOFS of the statements on the state (10_state.md): its reset values (R63), the frames of the units (R22) and the
invariants. What an operation can do to the registers of each unit is said once for all operations (`exec_units`); an
invariant is then one case split over the updates of its unit, carried to every step by `step_invariant_of_units`. -/

namespace Sys2Proof.Machine

/-! ## What an operation can do to the registers of each unit -/

/-- What operation `i` can make of the filters in state `s`: leave them, reset them, or write one of them. -/
inductive DbfUpdate (s : State) : Instr → List Filter → Prop
  | keep (i : Instr) : DbfUpdate s i s.dbf
  | reset : DbfUpdate s .rst (List.replicate s.params.nf Filter.reset)
  | policy (k : Byte) (f : Nat) (c : Policy) : DbfUpdate s (.wr k) (s.setFilter f ((s.filter f).withPolicy c)).dbf
  | window (k : Byte) (f : Nat) (v : Word) :
    DbfUpdate s (.wr k)
      (s.setFilter f { s.filter f with window := BitVec.ofNat 16 (clampTo s.params.ww v) }).dbf
  | load (f : Byte) :
    DbfUpdate s (.dbfInit f) (s.setFilter f.toNat ((s.filter f.toNat).load (scalarOf s))).dbf
  | update (f : Byte) :
    DbfUpdate s (.dbfUpd f)
      (s.setFilter f.toNat (filterStep s.params (scalarOf s) (nowOf s) (s.filter f.toNat))).dbf

/-- What operation `i` can make of the EDS registers in state `s`. -/
inductive EdsUpdate (s : State) : Instr → Eds → Prop
  | keep (i : Instr) : EdsUpdate s i s.eds
  | reset : EdsUpdate s .rst (Eds.reset s.params)
  | config (k : Byte) (debounce : Window) (repdly repint lpdly : Byte)
      (hdebounce : debounce = s.eds.debounce ∨ ∃ v, debounce = BitVec.ofNat 16 (clampTo s.params.ww v)) :
    EdsUpdate s (.wr k)
      { s.eds with debounce := debounce, repdly := repdly, repint := repint, lpdly := lpdly }
  | load : EdsUpdate s .edsInit (s.eds.load (rawBanksOf s) (nowOf s))
  | poll : EdsUpdate s .edsPoll (pollSteps s.params (rawBanksOf s) (nowOf s) s.eds).eds
  | bind (pin : Byte) (hroom : s.eds.nbind.toNat ≠ s.params.nslot)
      (hpin : bypassOf s = false → pin.toNat < s.params.npin) :
    EdsUpdate s (.edsBind pin) (s.eds.append ⟨bypassOf s, pin⟩)
  | next (hbound : s.eds.nbind ≠ 0#8) : EdsUpdate s .edsNext { s.eds with cursor := s.eds.nextCursor }

/-- A mask register after a write of some register: as it was, or a value cut to the implemented encoders. -/
def KeptOrMasked (p : Params) (old new : Byte) : Prop := new = old ∨ ∃ v : Byte, new = v &&& p.emask

/-- What operation `i` can make of the QED registers in state `s`. -/
inductive QedUpdate (s : State) : Instr → Qed → Prop
  | keep (i : Instr) : QedUpdate s i s.qed
  | reset : QedUpdate s .rst (Qed.reset s.params)
  | config (k inv half modewrap : Byte) (hinv : KeptOrMasked s.params s.qed.inv inv)
      (hhalf : KeptOrMasked s.params s.qed.half half) (hwrap : KeptOrMasked s.params s.qed.modewrap modewrap) :
    QedUpdate s (.wr k) { s.qed with inv := inv, half := half, modewrap := modewrap }
  | nmodes (k : Byte) (e : Nat) (v : Word) : QedUpdate s (.wr k) (writeNmodes s e v).qed
  | load : QedUpdate s .qedInit (s.qed.load (planesOf s) (nowOf s))
  | tick : QedUpdate s .qedUpd (tick s.params (planesOf s) (nowOf s) s.qed).qed
  | rdacc (e : Byte) :
    QedUpdate s (.qedRdacc e) (s.qed.setEnc e.toNat { s.qed.enc e.toNat with count := 0#32 })
  | rdabs (e : Byte) : QedUpdate s (.qedRdabs e) { s.qed with cntchg := clearBit s.qed.cntchg e.toNat }
  | rdmode (e : Byte) : QedUpdate s (.qedRdmode e) { s.qed with modechg := clearBit s.qed.modechg e.toNat }
  | rdtrn :
    QedUpdate s .qedRdtrn { s.qed with chgup := 0#8, chgdn := 0#8, chgqup := 0#8, chgqdn := 0#8 }

/-- `t` is `s` with the registers of the three units as operation `i` can make them, and with some responses. -/
def UnitsUpdate (s : State) (i : Instr) (t : State) : Prop :=
  ∃ dbf eds qed rs, t = { s with dbf := dbf, eds := eds, qed := qed, responses := rs } ∧
    DbfUpdate s i dbf ∧ EdsUpdate s i eds ∧ QedUpdate s i qed

/-- A write reaches the registers of one unit. -/
theorem writeNumber_units (s : State) (k : Byte) (v : Word) : UnitsUpdate s (.wr k) (writeNumber s k v) := by
  unfold writeNumber
  split
  case h_2 => exact ⟨_, _, _, _, rfl, .keep _, .keep _, .keep _⟩
  case h_1 r _ =>
    cases r
    case policy =>
      simp only [writeReg, writePolicy]
      split
      · exact ⟨_, _, _, _, rfl, .policy k _ _, .keep _, .keep _⟩
      · exact ⟨_, _, _, _, rfl, .keep _, .keep _, .keep _⟩
    case window => exact ⟨_, _, _, _, rfl, .window k _ v, .keep _, .keep _⟩
    case debounce => exact ⟨_, _, _, _, rfl, .keep _, .config k _ _ _ _ (.inr ⟨v, rfl⟩), .keep _⟩
    case repdly => exact ⟨_, _, _, _, rfl, .keep _, .config k _ _ _ _ (.inl rfl), .keep _⟩
    case repint => exact ⟨_, _, _, _, rfl, .keep _, .config k _ _ _ _ (.inl rfl), .keep _⟩
    case lpdly => exact ⟨_, _, _, _, rfl, .keep _, .config k _ _ _ _ (.inl rfl), .keep _⟩
    case inv =>
      exact ⟨_, _, _, _, rfl, .keep _, .keep _, .config k _ _ _ (.inr ⟨_, rfl⟩) (.inl rfl) (.inl rfl)⟩
    case half =>
      exact ⟨_, _, _, _, rfl, .keep _, .keep _, .config k _ _ _ (.inl rfl) (.inr ⟨_, rfl⟩) (.inl rfl)⟩
    case modewrap =>
      exact ⟨_, _, _, _, rfl, .keep _, .keep _, .config k _ _ _ (.inl rfl) (.inl rfl) (.inr ⟨_, rfl⟩)⟩
    case nmodes => exact ⟨_, _, _, _, rfl, .keep _, .keep _, .nmodes k _ v⟩
    all_goals exact ⟨_, _, _, _, rfl, .keep _, .keep _, .keep _⟩

/-- What a response is given from, and so what it leaves in the units. -/
theorem unitsUpdate_respond {s u t : State} {i : Instr} {r : Response} (hu : UnitsUpdate s i u)
    (h : respond u r = .next t) : UnitsUpdate s i t := by
  obtain ⟨dbf, eds, qed, rs, rfl, hd, he, hq⟩ := hu
  rw [respond_next_iff] at h
  exact ⟨dbf, eds, qed, _, h, hd, he, hq⟩

theorem unitsUpdate_keep (s : State) (i : Instr) : UnitsUpdate s i s :=
  ⟨_, _, _, _, rfl, .keep _, .keep _, .keep _⟩

/-- Every operation, said once: which registers of the three units it can write, and with what. -/
theorem exec_units {i : Instr} {s t : State} (h : exec i s = .next t) : UnitsUpdate s i t := by
  cases i
  case nop => exact unitsUpdate_respond (unitsUpdate_keep s _) h
  case rd k => exact unitsUpdate_respond (unitsUpdate_keep s _) h
  case wr k => exact unitsUpdate_respond (writeNumber_units s k _) h
  case rst => exact unitsUpdate_respond ⟨_, _, _, _, rfl, .reset, .reset, .reset⟩ h
  case dbfInit f =>
    simp only [exec, execDbfInit] at h
    split at h
    · exact unitsUpdate_respond ⟨_, _, _, _, rfl, .load f, .keep _, .keep _⟩ h
    · exact unitsUpdate_respond (unitsUpdate_keep s _) h
  case dbfUpd f =>
    simp only [exec, execDbfUpd] at h
    split at h
    · exact unitsUpdate_respond ⟨_, _, _, _, rfl, .update f, .keep _, .keep _⟩ h
    · exact unitsUpdate_respond (unitsUpdate_keep s _) h
  case dbfStat f =>
    simp only [exec, execDbfStat] at h
    split at h
    all_goals exact unitsUpdate_respond (unitsUpdate_keep s _) h
  case edsInit => exact unitsUpdate_respond ⟨_, _, _, _, rfl, .keep _, .load, .keep _⟩ h
  case edsPoll => exact unitsUpdate_respond ⟨_, _, _, _, rfl, .keep _, .poll, .keep _⟩ h
  case edsBind pin =>
    simp only [exec, execEdsBind] at h
    split at h
    case isTrue => exact unitsUpdate_respond (unitsUpdate_keep s _) h
    case isFalse hroom =>
      split at h
      case isTrue => exact unitsUpdate_respond (unitsUpdate_keep s _) h
      case isFalse hpin =>
        have hbind := EdsUpdate.bind pin hroom fun hb => Nat.lt_of_not_le fun hle => hpin ⟨hb, hle⟩
        exact unitsUpdate_respond ⟨_, _, _, _, rfl, .keep _, hbind, .keep _⟩ h
  case edsNext =>
    simp only [exec, execEdsNext] at h
    split at h
    case isTrue => exact unitsUpdate_respond (unitsUpdate_keep s _) h
    case isFalse hbound => exact unitsUpdate_respond ⟨_, _, _, _, rfl, .keep _, .next hbound, .keep _⟩ h
  case qedInit => exact unitsUpdate_respond ⟨_, _, _, _, rfl, .keep _, .keep _, .load⟩ h
  case qedUpd => exact unitsUpdate_respond ⟨_, _, _, _, rfl, .keep _, .keep _, .tick⟩ h
  case qedRdacc e =>
    simp only [exec, execQedRdacc] at h
    split at h
    · exact unitsUpdate_respond ⟨_, _, _, _, rfl, .keep _, .keep _, .rdacc e⟩ h
    · exact unitsUpdate_respond (unitsUpdate_keep s _) h
  case qedRdabs e =>
    simp only [exec, execQedRdabs] at h
    split at h
    · exact unitsUpdate_respond ⟨_, _, _, _, rfl, .keep _, .keep _, .rdabs e⟩ h
    · exact unitsUpdate_respond (unitsUpdate_keep s _) h
  case qedRdmode e =>
    simp only [exec, execQedRdmode] at h
    split at h
    · exact unitsUpdate_respond ⟨_, _, _, _, rfl, .keep _, .keep _, .rdmode e⟩ h
    · exact unitsUpdate_respond (unitsUpdate_keep s _) h
  case qedRdtrn => exact unitsUpdate_respond ⟨_, _, _, _, rfl, .keep _, .keep _, .rdtrn⟩ h

/-! ## The two resets -/

/-- The hardware reset, said once. -/
theorem step_of_hardReset {s : State} {rest : List HostEvent} (h : s.pending = .hardReset :: rest) :
    step s = .next ({ s with pending := rest } : State).resetBlock := by
  simp only [step, h, hardReset]

theorem exec_rst (s : State) : exec .rst s = respond s.resetBlock Response.zero := rfl

/-- The registers of a state that has just been reset, in one of the three ways. -/
theorem units_of_reset {p : Params} {t : State}
    (h : t = State.resetWith p ∨ ∃ s : State, s.params = p ∧
      (exec .rst s = .next t ∨ ∃ rest, s.pending = .hardReset :: rest ∧ step s = .next t)) :
    t.dbf = List.replicate p.nf Filter.reset ∧ t.eds = Eds.reset p ∧ t.qed = Qed.reset p := by
  rcases h with rfl | ⟨s, rfl, h | ⟨rest, hp, h⟩⟩
  · exact ⟨rfl, rfl, rfl⟩
  · rw [exec_rst, respond_next_iff] at h
    subst h; exact ⟨rfl, rfl, rfl⟩
  · rw [step_of_hardReset hp, Host.Outcome.next.injEq] at h
    subst h; exact ⟨rfl, rfl, rfl⟩

/-! ## What a poll leaves in the registers -/

/-- The timer of the debounce technique keeps its start or takes the present time. -/
theorem restartOnChange_t0 {α : Type} [DecidableEq α] (now : Time) (raw : α) (t : DebounceTimer α) :
    (restartOnChange now raw t).t0 = t.t0 ∨ (restartOnChange now raw t).t0 = now := by
  rcases restartOnChange_cases now raw t with ⟨-, -, e⟩ | ⟨-, e⟩ <;> rw [e]
  · exact .inl rfl
  · exact .inr rfl

/-- The EDS registers after a poll that commits `raw`. -/
def Eds.committed (d : Eds) (raw : List Byte) (debt0 now : Time) : Eds :=
  { d with
    cur := raw
    pend := raw
    debt0 := debt0
    debrun := false
    lpdone := List.zipWith clearReleased d.lpdone (List.zipWith upEdges raw d.cur)
    anchor := now
    repph := false
    lparm := true }

/-- The long-press mask after a firing of the long-press timer (R151). -/
def Eds.firedLong (d : Eds) : List Byte :=
  List.zipWith (· ||| ·) d.lpdone (List.zipWith longLines d.cur d.lpdone)

/-- The registers after a poll: those of a commit; or the debounce timer is stopped or times a vector that differs from
the committed one, and the long-press mask is kept or takes the lines that fire. -/
theorem pollSteps_eds (p : Params) (raw : List Byte) (now : Time) (d : Eds) :
    (∃ t0, (t0 = d.debt0 ∨ t0 = now) ∧ (pollSteps p raw now d).eds = d.committed raw t0 now) ∨
    (∃ pend t0 run lpdone repph rept0 lparm,
      (run = false ∧ pend = d.pend ∨ raw ≠ d.cur ∧ pend = raw) ∧ (t0 = d.debt0 ∨ t0 = now) ∧
      (rept0 = d.rept0 ∨ rept0 = now) ∧ (lpdone = d.lpdone ∨ lpdone = d.firedLong) ∧
      (pollSteps p raw now d).eds =
        { d with
          pend := pend, debt0 := t0, debrun := run, lpdone := lpdone, repph := repph, rept0 := rept0
          lparm := lparm }) := by
  have hstart := restartOnChange_t0 now raw ⟨d.pend, d.debt0, d.debrun⟩
  rcases pollSteps_cases p raw now d with ⟨t0, -, rfl, -, e⟩ | ⟨pend, t0, run, htimer, e⟩ <;> rw [e]
  · exact .inl ⟨_, hstart, rfl⟩
  · obtain ⟨rpt, lng, lpdone, repph, rept0, lparm, e', hrep, hnorep, hlong, hnolong⟩ :=
      pollTimers_cases p now { d with pend := pend, debt0 := t0, debrun := run }
    rw [e']
    refine .inr ⟨pend, t0, run, lpdone, repph, rept0, lparm, ?_, ?_, ?_, ?_, rfl⟩
    · rcases htimer with ⟨-, hpend, -, hrun⟩ | ⟨hne, hpend, -⟩
      · exact .inl ⟨hrun, hpend⟩
      · exact .inr ⟨hne, hpend⟩
    · rcases htimer with ⟨-, -, ht0, -⟩ | ⟨-, -, rfl, -⟩
      · exact .inl ht0
      · exact hstart
    · cases hf : repeatFires p now { d with pend := pend, debt0 := t0, debrun := run }
      · obtain ⟨-, -, hkept⟩ := hnorep hf
        exact .inl hkept
      · obtain ⟨-, -, hfired⟩ := hrep hf
        exact .inr hfired
    · cases hf : longFires p now { d with pend := pend, debt0 := t0, debrun := run }
      · obtain ⟨-, hkept, -⟩ := hnolong hf
        exact .inl hkept
      · obtain ⟨-, hfired, -⟩ := hlong hf
        exact .inr hfired

/-! ## Sizes -/

theorem DbfUpdate.length_eq {s : State} {i : Instr} {l : List Filter} (h : DbfUpdate s i l) (hs : s.Sized) :
    l.length = s.params.nf := by
  obtain ⟨-, hdbf, -⟩ := hs
  cases h
  case keep => exact hdbf
  case reset => exact List.length_replicate
  all_goals rw [State.setFilter_dbf, List.length_set, hdbf]

/-- The register files of the EDS have their sizes. -/
def Eds.Sized (p : Params) (d : Eds) : Prop :=
  d.cur.length = p.nb ∧ d.pend.length = p.nb ∧ d.lpdone.length = p.nb ∧ d.slots.length = p.nslot

theorem State.Sized.eds {s : State} (hs : s.Sized) : s.eds.Sized s.params := by
  obtain ⟨-, -, hcur, hpend, hlpdone, hslots, -⟩ := hs
  exact ⟨hcur, hpend, hlpdone, hslots⟩

theorem pollSteps_sized {p : Params} {raw : List Byte} (now : Time) {d : Eds} (hraw : raw.length = p.nb)
    (hd : d.Sized p) : (pollSteps p raw now d).eds.Sized p := by
  obtain ⟨hcur, hpend, hlpdone, hslots⟩ := hd
  rcases pollSteps_eds p raw now d with ⟨t0, -, e⟩ | ⟨pend, t0, run, lpdone, repph, rept0, lparm, hp, -, -, hl, e⟩ <;>
    rw [e]
  · exact ⟨hraw, hraw, by simp [Eds.committed, hraw, hcur, hlpdone], hslots⟩
  · refine ⟨hcur, ?_, ?_, hslots⟩
    · rcases hp with ⟨-, rfl⟩ | ⟨-, rfl⟩ <;> assumption
    · rcases hl with rfl | rfl
      · exact hlpdone
      · simp [Eds.firedLong, hcur, hlpdone]

theorem EdsUpdate.sized {s : State} {i : Instr} {d : Eds} (h : EdsUpdate s i d) (hs : s.Sized) : d.Sized s.params := by
  have hd := hs.eds
  have hraw := rawBanksOf_length s
  cases h
  case reset => exact (resetWith_sized hs.1).eds
  case load =>
    obtain ⟨-, -, -, hslots⟩ := hd
    exact ⟨hraw, hraw, (List.length_map _).trans hraw, hslots⟩
  case poll => exact pollSteps_sized _ hraw hd
  case bind =>
    obtain ⟨hcur, hpend, hlpdone, hslots⟩ := hd
    exact ⟨hcur, hpend, hlpdone, List.length_set.trans hslots⟩
  all_goals exact hd

theorem tick_cases (p : Params) (v : Planes) (now : Time) (q : Qed) :
    (elapsed p now q.lasttick = 0 ∧ tick p v now q = ⟨q, TickEvent.zero⟩) ∨
    (elapsed p now q.lasttick ≠ 0 ∧ tick p v now q = tickSteps p v now q) := by
  unfold tick
  by_cases h : elapsed p now q.lasttick = 0
  · exact .inl ⟨h, if_pos h⟩
  · exact .inr ⟨h, if_neg h⟩

theorem tickSteps_encs_length (p : Params) (v : Planes) (now : Time) (q : Qed) :
    (tickSteps p v now q).qed.encs.length = q.encs.length := by
  obtain ⟨l, _, _, _, _, _, _, _, _, _, _, _, _, rfl, e, -⟩ := tickSteps_cases p v now q
  rw [e, tickModes_encs, List.length_mapIdx, tickLines_length]

theorem QedUpdate.length_eq {s : State} {i : Instr} {q : Qed} (h : QedUpdate s i q) (hs : s.Sized) :
    q.encs.length = s.params.ne := by
  obtain ⟨-, -, -, -, -, -, hencs⟩ := hs
  cases h
  case reset => exact List.length_replicate
  case nmodes => exact List.length_set.trans hencs
  case load => exact (List.length_map _).trans hencs
  case rdacc => exact List.length_set.trans hencs
  case tick =>
    rcases tick_cases s.params (planesOf s) (nowOf s) s.qed with ⟨-, e⟩ | ⟨-, e⟩ <;> rw [e]
    · exact hencs
    · rw [tickSteps_encs_length, hencs]
  all_goals exact hencs

theorem units_sized {s : State} {i : Instr} {dbf : List Filter} {eds : Eds} {qed : Qed} (hs : s.Sized)
    (hd : DbfUpdate s i dbf) (he : EdsUpdate s i eds) (hq : QedUpdate s i qed) :
    ({ s with dbf := dbf, eds := eds, qed := qed } : State).Sized := by
  obtain ⟨hcur, hpend, hlpdone, hslots⟩ := he.sized hs
  exact ⟨hs.1, hd.length_eq hs, hcur, hpend, hlpdone, hslots, hq.length_eq hs⟩

/-! ## Invariants by units -/

/-- A property of the registers that survives what the operations can do to the units of a state with the right sizes
survives every step: taking a command off the port and giving a response touch no register, and the hardware reset does
to the registers what `RST` does. -/
theorem step_invariant_of_units (P : State → Prop)
    (hhost : ∀ {s rest ports rs}, P s → P { s with pending := rest, ports := ports, responses := rs })
    (hunits : ∀ {s i dbf eds qed}, s.Sized → P s → DbfUpdate s i dbf → EdsUpdate s i eds → QedUpdate s i qed →
      P { s with dbf := dbf, eds := eds, qed := qed })
    (s t : State) (hs : s.Sized) (h : P s) (hstep : step s = .next t) : t.Sized ∧ P t := by
  refine step_invariant (fun u => u.Sized ∧ P u) ?sample ?respond ?reset ?exec s t ⟨hs, h⟩ hstep
  case sample => exact fun u rest ports ⟨hu, hPu⟩ => ⟨hu, hhost (s := u) hPu⟩
  case respond => exact fun u rs ⟨hu, hPu⟩ => ⟨hu, hhost (s := u) hPu⟩
  case reset =>
    intro u rest ⟨hu, hPu⟩
    have hreset := hunits hu hPu .reset .reset .reset
    exact ⟨resetWith_sized hu.1, hhost hreset⟩
  case exec =>
    intro i u v ⟨hu, hPu⟩ hexec
    obtain ⟨dbf, eds, qed, rs, rfl, hd, he, hq⟩ := exec_units hexec
    exact ⟨units_sized hu hd he hq, hhost (hunits hu hPu hd he hq)⟩

/-! ## The binding table -/

/-- What an operation can do to the binding table: reset it, leave it, append one slot, or move the cursor. -/
theorem EdsUpdate.table {s : State} {i : Instr} {d : Eds} (h : EdsUpdate s i d) :
    (i = .rst ∧ d = Eds.reset s.params) ∨
    (d.nbind = s.eds.nbind ∧ d.slots = s.eds.slots ∧
      (d.cursor = s.eds.cursor ∨ s.eds.nbind ≠ 0#8 ∧ d.cursor = s.eds.nextCursor)) ∨
    (∃ pin, i = .edsBind pin ∧ s.eds.nbind.toNat ≠ s.params.nslot ∧
      (bypassOf s = false → pin.toNat < s.params.npin) ∧ d = s.eds.append ⟨bypassOf s, pin⟩) := by
  cases h
  case reset => exact .inl ⟨rfl, rfl⟩
  case bind pin hroom hpin => exact .inr (.inr ⟨pin, rfl, hroom, hpin, rfl⟩)
  case next hbound => exact .inr (.inl ⟨rfl, rfl, .inr ⟨hbound, rfl⟩⟩)
  case poll =>
    obtain ⟨-, -, -, -, hnbind, hslots, hcursor⟩ := pollSteps_frame s.params (rawBanksOf s) (nowOf s) s.eds
    exact .inr (.inl ⟨hnbind, hslots, .inl hcursor⟩)
  all_goals exact .inr (.inl ⟨rfl, rfl, .inl rfl⟩)

theorem slot_of_slots_eq {d d' : Eds} (h : d.slots = d'.slots) (j : Nat) : d.slot j = d'.slot j :=
  congrArg (·.getD j Slot.reset) h

/-- The cursor's next value is below NBIND, which is at most 254. -/
theorem nextCursor_lt {d : Eds} (hpos : d.nbind ≠ 0#8) (hcursor : d.cursor.toNat < max d.nbind.toNat 1) :
    d.nextCursor.toNat < max d.nbind.toNat 1 := by
  have hpos' : d.nbind.toNat ≠ 0 := fun h0 => hpos (BitVec.eq_of_toNat_eq h0)
  unfold Eds.nextCursor
  split
  · simp
  · have hlt := d.nbind.isLt
    rw [BitVec.toNat_add, BitVec.toNat_ofNat]; omega

/-- A free entry leaves room for the count to rise. -/
theorem nbind_append_toNat {s : State} (hs : s.Sized) (hb : s.BindingOk) (hroom : s.eds.nbind.toNat ≠ s.params.nslot) :
    s.eds.nbind.toNat < s.params.nslot ∧ (s.eds.nbind + 1#8).toNat = s.eds.nbind.toNat + 1 := by
  obtain ⟨⟨-, -, -, -, -, ⟨-, hnslot⟩, -⟩, -⟩ := hs
  obtain ⟨hle, -⟩ := hb
  rw [BitVec.toNat_add, BitVec.toNat_ofNat]
  omega

/-- A slot appended to a table with room. -/
theorem append_bindingOk {s : State} (hs : s.Sized) (hb : s.BindingOk) (pin : Byte)
    (hroom : s.eds.nbind.toNat ≠ s.params.nslot) (hpin : bypassOf s = false → pin.toNat < s.params.npin) :
    ({ s with eds := s.eds.append ⟨bypassOf s, pin⟩ } : State).BindingOk := by
  obtain ⟨hlt, hsucc⟩ := nbind_append_toNat hs hb hroom
  obtain ⟨-, -, -, -, -, hslots, -⟩ := hs
  obtain ⟨-, hcursor, hused, hfree⟩ := hb
  simp only [State.BindingOk, Eds.append_nbind, Eds.append_cursor, hsucc]
  refine ⟨by omega, by omega, fun j hj hjn hbyp => ?_, fun j hj hjn => ?_⟩
  · by_cases hjlast : j = s.eds.nbind.toNat
    · subst hjlast
      rw [slot_append_self _ _ (hslots ▸ hlt)] at hbyp ⊢
      exact hpin hbyp
    · rw [slot_append_ne _ _ _ hjlast] at hbyp ⊢
      exact hused j hj (by omega) hbyp
  · rw [slot_append_ne _ _ _ (by omega)]
    exact hfree j hj (by omega)

theorem EdsUpdate.bindingOk {s : State} {i : Instr} {d : Eds} (h : EdsUpdate s i d) (hs : s.Sized) (hb : s.BindingOk) :
    ({ s with eds := d } : State).BindingOk := by
  rcases h.table with ⟨-, rfl⟩ | ⟨hnbind, hslots, hcursor⟩ | ⟨pin, -, hroom, hpin, rfl⟩
  · exact resetWith_bindingOk s.params
  · obtain ⟨hle, hcur, hused, hfree⟩ := hb
    simp only [State.BindingOk, hnbind, slot_of_slots_eq hslots]
    refine ⟨hle, ?_, hused, hfree⟩
    rcases hcursor with hc | ⟨hpos, hc⟩ <;> rw [hc]
    · exact hcur
    · exact nextCursor_lt hpos hcur
  · exact append_bindingOk hs hb pin hroom hpin

/-! ## The lines -/

/-- A line that goes inactive loses its long-press flag, so the mask stays on active lines. -/
theorem clearReleased_upEdges_and (lpdone new old : Byte) (h : lpdone &&& old = 0#8) :
    clearReleased lpdone (upEdges new old) &&& new = 0#8 := by
  grind [clearReleased, upEdges]

/-- Only active lines fire a long-press. -/
theorem or_longLines_and (lpdone cur : Byte) (h : lpdone &&& cur = 0#8) :
    (lpdone ||| longLines cur lpdone) &&& cur = 0#8 := by
  grind [longLines]

/-- A bank of a bank-wise operation on two vectors of one length. -/
theorem zipWith_getD (g : Byte → Byte → Byte) {l r : List Byte} {b n : Nat} (hl : l.length = n) (hr : r.length = n)
    (hb : b < n) : (List.zipWith g l r).getD b 0#8 = g (l.getD b 0#8) (r.getD b 0#8) :=
  getD_of_getElem? _ _ _ (zipWith_getElem? g l r b n hl hr hb)

/-- A commit takes the lines that went inactive out of the long-press mask, and stops the debounce timer. -/
theorem committed_linesOk {s : State} (hs : s.Sized) (hl : s.LinesOk) (raw : List Byte) (debt0 now : Time)
    (hraw : raw.length = s.params.nb) : ({ s with eds := s.eds.committed raw debt0 now } : State).LinesOk := by
  obtain ⟨hcur, -, hlpdone, -⟩ := hs.eds
  obtain ⟨hmask, -⟩ := hl
  refine ⟨fun b hb => ?_, fun hrun => absurd hrun Bool.false_ne_true⟩
  have hup : (List.zipWith upEdges raw s.eds.cur).length = s.params.nb := by simp [hraw, hcur]
  simp only [Eds.committed]
  rw [zipWith_getD _ hlpdone hup hb, zipWith_getD _ hraw hcur hb]
  exact clearReleased_upEdges_and _ _ _ (hmask b hb)

theorem firedLong_getD_and_cur {s : State} (hs : s.Sized) (hl : s.LinesOk) {b : Nat} (hb : b < s.params.nb) :
    s.eds.firedLong.getD b 0#8 &&& s.eds.cur.getD b 0#8 = 0#8 := by
  obtain ⟨hcur, -, hlpdone, -⟩ := hs.eds
  obtain ⟨hmask, -⟩ := hl
  have hlong : (List.zipWith longLines s.eds.cur s.eds.lpdone).length = s.params.nb := by simp [hlpdone, hcur]
  rw [Eds.firedLong, zipWith_getD _ hlpdone hlong hb, zipWith_getD _ hcur hlpdone hb]
  exact or_longLines_and _ _ (hmask b hb)

theorem pollSteps_linesOk {s : State} (hs : s.Sized) (hl : s.LinesOk) (raw : List Byte) (now : Time)
    (hraw : raw.length = s.params.nb) : ({ s with eds := (pollSteps s.params raw now s.eds).eds } : State).LinesOk := by
  rcases pollSteps_eds s.params raw now s.eds with
    ⟨t0, -, e⟩ | ⟨pend, t0, run, lpdone, repph, rept0, lparm, hpend, -, -, hlpdone, e⟩ <;> rw [e]
  · exact committed_linesOk hs hl raw t0 now hraw
  · refine ⟨fun b hb => ?_, fun hrun => ?_⟩
    · rcases hlpdone with rfl | rfl
      · exact hl.1 b hb
      · exact firedLong_getD_and_cur hs hl hb
    · rcases hpend with ⟨hstop, -⟩ | ⟨hne, rfl⟩
      · exact absurd (hrun.symm.trans hstop) Bool.noConfusion
      · exact hne

theorem EdsUpdate.linesOk {s : State} {i : Instr} {d : Eds} (h : EdsUpdate s i d) (hs : s.Sized) (hl : s.LinesOk) :
    ({ s with eds := d } : State).LinesOk := by
  cases h
  case reset => exact resetWith_linesOk s.params
  case load =>
    refine ⟨fun b hb => ?_, fun hrun => absurd hrun Bool.false_ne_true⟩
    have hzero : (s.eds.load (rawBanksOf s) (nowOf s)).lpdone.getD b 0#8 = 0#8 := by
      simp [List.getD]
    rw [hzero, BitVec.zero_and]
  case poll => exact pollSteps_linesOk hs hl _ _ (rawBanksOf_length s)
  all_goals exact hl

/-! ## Widths -/

/-- A clamped value fits the width it is clamped to (R113). -/
theorem clampTo_lt (n m : Nat) (h : n ≤ m) (v : Word) : (BitVec.ofNat m (clampTo n v)).toNat < 2 ^ n := by
  rw [clampTo_toNat n m h]
  have hpos := Nat.two_pow_pos n
  omega

theorem filterStep_inRange {p : Params} {inp : Word} {now : Time} {x : Filter} (hinp : inp.toNat < 2 ^ p.vw)
    (hnow : now.toNat < 2 ^ p.tw) (hx : x.InRange p) : (filterStep p inp now x).InRange p := by
  obtain ⟨hwindow, hout, hcand, ht0⟩ := hx
  unfold filterStep
  split
  · rcases holderStep_cases p inp now x with
      ⟨-, e⟩ | ⟨-, -, -, e⟩ | ⟨-, -, -, e⟩ | ⟨-, -, -, -, e⟩ | ⟨-, -, -, -, e⟩ <;>
      rw [e] <;> refine ⟨hwindow, ?_, ?_, ?_⟩ <;> assumption
  · rcases delayerStep_cases p inp now x with ⟨-, -, e⟩ | ⟨-, -, e⟩ | ⟨-, -, e⟩ | ⟨-, -, -, e⟩ <;>
      rw [e] <;> refine ⟨hwindow, ?_, ?_, ?_⟩ <;> assumption
  · rcases blankerStep_cases p inp now x with ⟨-, -, e⟩ | ⟨-, -, e⟩ | ⟨-, -, e⟩ <;>
      rw [e] <;> refine ⟨hwindow, ?_, ?_, ?_⟩ <;> assumption

/-- The filter read for an index is one of the file, or, beyond its end, a reset one. -/
theorem filter_inRange {s : State} (h : ∀ x ∈ s.dbf, x.InRange s.params) (f : Nat) : (s.filter f).InRange s.params := by
  by_cases hf : f < s.dbf.length
  · exact h _ (filter_mem s f hf)
  · have hbeyond : s.filter f = Filter.reset := by simp [State.filter, List.getD, Nat.not_lt.mp hf]
    rw [hbeyond]; exact Filter.reset_inRange s.params

theorem setFilter_inRange {s : State} (h : ∀ x ∈ s.dbf, x.InRange s.params) (f : Nat) {x : Filter}
    (hx : x.InRange s.params) : ∀ y ∈ (s.setFilter f x).dbf, y.InRange s.params := by
  intro y hy
  rcases mem_setFilter s f x y hy with rfl | hy
  · exact hx
  · exact h y hy

theorem DbfUpdate.inRange {s : State} {i : Instr} {l : List Filter} (h : DbfUpdate s i l) (hp : s.params.Legal)
    (hd : ∀ x ∈ s.dbf, x.InRange s.params) : ∀ x ∈ l, x.InRange s.params := by
  obtain ⟨⟨-, htw⟩, -, ⟨-, hvw⟩, ⟨-, hww⟩, -⟩ := hp
  have hold := filter_inRange hd
  have hscalar := scalarOf_lt s hvw
  cases h
  case keep => exact hd
  case reset =>
    intro x hx
    rw [List.eq_of_mem_replicate hx]; exact Filter.reset_inRange s.params
  case policy f c =>
    obtain ⟨hwindow, hout, -, ht0⟩ := hold f
    exact setFilter_inRange hd f ⟨hwindow, hout, hout, ht0⟩
  case window f v =>
    obtain ⟨-, hout, hcand, ht0⟩ := hold f
    exact setFilter_inRange hd f ⟨clampTo_lt _ 16 hww v, hout, hcand, ht0⟩
  case load f =>
    obtain ⟨hwindow, -, -, ht0⟩ := hold f.toNat
    exact setFilter_inRange hd f.toNat ⟨hwindow, hscalar, hscalar, ht0⟩
  case update f => exact setFilter_inRange hd f.toNat (filterStep_inRange hscalar (nowOf_lt s htw) (hold f.toNat))

/-- The registers of the EDS hold values of their widths (R29, R35 to R37). -/
def Eds.InRange (p : Params) (d : Eds) : Prop :=
  d.debounce.toNat < 2 ^ p.ww ∧ d.debt0.toNat < 2 ^ p.tw ∧ d.anchor.toNat < 2 ^ p.tw ∧ d.rept0.toNat < 2 ^ p.tw

/-- The registers of the QED hold values of their widths (R47, R49, R50, R56, R57). -/
def Qed.InRange (p : Params) (q : Qed) : Prop :=
  q.lasttick.toNat < 2 ^ p.tw ∧ q.swt0.toNat < 2 ^ p.tw ∧ q.patt0.toNat < 2 ^ p.tw ∧ ∀ x ∈ q.encs, x.InRange p

theorem inRange_iff_units (s : State) :
    s.InRange ↔ (∀ x ∈ s.dbf, x.InRange s.params) ∧ s.eds.InRange s.params ∧ s.qed.InRange s.params := by
  simp only [State.InRange, Eds.InRange, Qed.InRange, and_assoc]

/-- A timestamp that is kept or taken anew holds a value of its width. -/
theorem kept_or_now_lt {p : Params} {t old now : Time} (h : t = old ∨ t = now) (hold : old.toNat < 2 ^ p.tw)
    (hnow : now.toNat < 2 ^ p.tw) : t.toNat < 2 ^ p.tw := by
  rcases h with rfl | rfl <;> assumption

theorem EdsUpdate.inRange {s : State} {i : Instr} {d : Eds} (h : EdsUpdate s i d) (hp : s.params.Legal)
    (hd : s.eds.InRange s.params) : d.InRange s.params := by
  obtain ⟨⟨-, htw⟩, -, -, ⟨-, hww⟩, -⟩ := hp
  have hnow := nowOf_lt s htw
  obtain ⟨hdebounce, hdebt0, hanchor, hrept0⟩ := hd
  cases h
  case reset =>
    obtain ⟨-, hreset, -⟩ := (inRange_iff_units _).mp (resetWith_inRange s.params)
    exact hreset
  case config hconfig =>
    refine ⟨?_, hdebt0, hanchor, hrept0⟩
    rcases hconfig with rfl | ⟨v, rfl⟩
    · exact hdebounce
    · exact clampTo_lt _ 16 hww v
  case load => exact ⟨hdebounce, hdebt0, hnow, hnow⟩
  case poll =>
    rcases pollSteps_eds s.params (rawBanksOf s) (nowOf s) s.eds with
      ⟨t0, ht0, e⟩ | ⟨pend, t0, run, lpdone, repph, rept0, lparm, -, ht0, hr0, -, e⟩ <;> rw [e]
    · exact ⟨hdebounce, kept_or_now_lt ht0 hdebt0 hnow, hnow, hrept0⟩
    · exact ⟨hdebounce, kept_or_now_lt ht0 hdebt0 hnow, hanchor, kept_or_now_lt hr0 hrept0 hnow⟩
  all_goals exact ⟨hdebounce, hdebt0, hanchor, hrept0⟩

/-- Every encoder after the rotation steps is one that was there, rotated or left alone. -/
theorem mem_tickLines_encs {p : Params} {v : Planes} {now : Time} {w : Tick} {x : Encoder}
    (hx : x ∈ (tickLines p v now w).qed.encs) : ∃ y ∈ w.qed.encs, ∃ up dn, x = rotateEncoder p now up dn y := by
  rcases tickLines_cases p v now w with ⟨-, e⟩ | ⟨-, e⟩ <;> rw [e] at hx
  · exact ⟨x, hx, false, false, rfl⟩
  · rw [tickRotate_encs, List.mem_mapIdx] at hx
    obtain ⟨i, hi, rfl⟩ := hx
    exact ⟨_, List.getElem_mem hi, _, _, rfl⟩

/-- Every encoder after the mode step is one that was there, with its next mode. -/
theorem mem_tickModes_encs {w : Tick} {x : Encoder} (hx : x ∈ (tickModes w).qed.encs) :
    ∃ y ∈ w.qed.encs, ∃ wrap held shortp longp,
      x = { y with mode := nextMode wrap held shortp longp y.nmodes y.mode } := by
  rw [tickModes_encs, List.mem_mapIdx] at hx
  obtain ⟨i, hi, rfl⟩ := hx
  exact ⟨_, List.getElem_mem hi, _, _, _, _, rfl⟩

/-- Every encoder after a processed tick is one that was there, first rotated, then with its next mode. -/
theorem mem_tickSteps_encs {p : Params} {v : Planes} {now : Time} {q : Qed} {x : Encoder}
    (hx : x ∈ (tickSteps p v now q).qed.encs) :
    ∃ y ∈ q.encs, ∃ up dn z wrap held shortp longp,
      z = rotateEncoder p now up dn y ∧ x = { z with mode := nextMode wrap held shortp longp z.nmodes z.mode } := by
  obtain ⟨l, _, _, _, _, _, _, _, _, _, _, _, _, rfl, e, -⟩ := tickSteps_cases p v now q
  rw [e] at hx
  obtain ⟨z, hz, wrap, held, shortp, longp, rfl⟩ := mem_tickModes_encs hx
  obtain ⟨y, hy, up, dn, hrot⟩ := mem_tickLines_encs hz
  exact ⟨y, hy, up, dn, z, wrap, held, shortp, longp, hrot, rfl⟩

theorem rotateEncoder_inRange {p : Params} {now : Time} (hcw : p.cw ≤ 32) (hnow : now.toNat < 2 ^ p.tw) (up dn : Bool)
    {x : Encoder} (hx : x.InRange p) : (rotateEncoder p now up dn x).InRange p := by
  rcases rotateEncoder_cases p now up dn x with ⟨-, -, e⟩ | ⟨-, e⟩ <;> rw [e]
  · exact hx
  · exact ⟨keepSigned_idem _ _ hcw, hnow⟩

theorem mem_setEnc {q : Qed} {e : Nat} {x y : Encoder} (h : y ∈ (q.setEnc e x).encs) : y = x ∨ y ∈ q.encs :=
  (List.mem_or_eq_of_mem_set h).symm

/-- The encoder read for an index is one of the file, or, beyond its end, a reset one. -/
theorem enc_mem_or_reset (q : Qed) (e : Nat) : q.enc e ∈ q.encs ∨ q.enc e = Encoder.reset := by
  by_cases he : e < q.encs.length
  · exact .inl (enc_mem q e he)
  · exact .inr (by simp [Qed.enc, List.getD, Nat.not_lt.mp he])

theorem enc_inRange {p : Params} {q : Qed} (h : ∀ x ∈ q.encs, x.InRange p) (e : Nat) : (q.enc e).InRange p := by
  rcases enc_mem_or_reset q e with he | he
  · exact h _ he
  · rw [he]; exact Encoder.reset_inRange p

theorem tickSteps_inRange {p : Params} (v : Planes) {now : Time} {q : Qed} (hp : p.Legal) (hnow : now.toNat < 2 ^ p.tw)
    (hq : q.InRange p) : (tickSteps p v now q).qed.InRange p := by
  obtain ⟨-, -, -, -, -, -, -, ⟨-, hcw⟩, -⟩ := hp
  obtain ⟨-, hswt0, hpatt0, hencs⟩ := hq
  have hencs' : ∀ x ∈ (tickSteps p v now q).qed.encs, x.InRange p := by
    intro x hx
    obtain ⟨y, hy, up, dn, z, _, _, _, _, rfl, rfl⟩ := mem_tickSteps_encs hx
    exact rotateEncoder_inRange hcw hnow up dn (hencs y hy)
  obtain ⟨l, swpend, swt0, swrun, swcur, lplatch, patt0, qlparm, _, _, _, _, _, hl, e, hsame, hdiff, -, -, -, -, hkept,
    hcommit, -⟩ := tickSteps_cases p v now q
  have hlast : l.qed.lasttick = now := by
    rcases tickLines_cases p v now ⟨{ q with lasttick := now }, TickEvent.zero⟩ with ⟨-, e'⟩ | ⟨-, e'⟩ <;> rw [hl, e']
    rfl
  rw [e] at hencs' ⊢
  refine ⟨?_, ?_, ?_, hencs'⟩
  · exact hlast ▸ hnow
  · by_cases hpat : v.s = q.swcur
    · obtain ⟨-, -, ht, -⟩ := hsame hpat
      exact ht ▸ hswt0
    · obtain ⟨-, ht, -⟩ := hdiff hpat
      exact kept_or_now_lt (p := p) (ht ▸ restartOnChange_t0 _ _ _) hswt0 hnow
  · by_cases hcur : swcur = q.swcur
    · exact (hkept hcur).1 ▸ hpatt0
    · exact (hcommit hcur).1 ▸ hnow

theorem QedUpdate.inRange {s : State} {i : Instr} {q : Qed} (h : QedUpdate s i q) (hp : s.params.Legal)
    (hq : s.qed.InRange s.params) : q.InRange s.params := by
  have ⟨⟨_, htw⟩, _⟩ := hp
  have hnow := nowOf_lt s htw
  have hold := hq
  obtain ⟨hlast, hswt0, hpatt0, hencs⟩ := hq
  cases h
  case reset =>
    obtain ⟨-, -, hreset⟩ := (inRange_iff_units _).mp (resetWith_inRange s.params)
    exact hreset
  case nmodes e v =>
    refine ⟨hlast, hswt0, hpatt0, fun x hx => ?_⟩
    rcases mem_setEnc hx with rfl | hx
    · exact enc_inRange hencs e
    · exact hencs x hx
  case load =>
    refine ⟨hnow, hnow, hnow, fun x hx => ?_⟩
    obtain ⟨y, hy, rfl⟩ := List.mem_map.mp hx
    exact ⟨keepSigned_zero _, (hencs y hy).2⟩
  case tick =>
    rcases tick_cases s.params (planesOf s) (nowOf s) s.qed with ⟨-, e⟩ | ⟨-, e⟩ <;> rw [e]
    · exact hold
    · exact tickSteps_inRange _ hp hnow hold
  case rdacc e =>
    refine ⟨hlast, hswt0, hpatt0, fun x hx => ?_⟩
    rcases mem_setEnc hx with rfl | hx
    · exact ⟨keepSigned_zero _, (enc_inRange hencs e.toNat).2⟩
    · exact hencs x hx
  all_goals exact ⟨hlast, hswt0, hpatt0, hencs⟩

theorem units_inRange {s : State} {i : Instr} {dbf : List Filter} {eds : Eds} {qed : Qed} (hp : s.params.Legal)
    (h : s.InRange) (hd : DbfUpdate s i dbf) (he : EdsUpdate s i eds) (hq : QedUpdate s i qed) :
    ({ s with dbf := dbf, eds := eds, qed := qed } : State).InRange := by
  obtain ⟨hdbf, heds, hqed⟩ := (inRange_iff_units s).mp h
  exact (inRange_iff_units _).mpr ⟨hd.inRange hp hdbf, he.inRange hp heds, hq.inRange hp hqed⟩

/-! ## Encoder masks -/

theorem WithinEmask.zero (p : Params) : WithinEmask p 0#8 := BitVec.zero_and

theorem WithinEmask.or {p : Params} {a b : Byte} (ha : WithinEmask p a) (hb : WithinEmask p b) :
    WithinEmask p (a ||| b) := by
  rw [WithinEmask, BitVec.and_or_distrib_right, ha, hb]

theorem WithinEmask.and {p : Params} {a : Byte} (ha : WithinEmask p a) (b : Byte) : WithinEmask p (a &&& b) := by
  rw [WithinEmask, BitVec.and_assoc, BitVec.and_comm b, ← BitVec.and_assoc, ha]

theorem KeptOrMasked.within {p : Params} {old new : Byte} (h : KeptOrMasked p old new) (hold : WithinEmask p old) :
    WithinEmask p new := by
  rcases h with rfl | ⟨v, rfl⟩
  · exact hold
  · rw [WithinEmask, BitVec.and_assoc, BitVec.and_self]

/-- A mask made of one bit for each encoder. -/
theorem maskOf_within {p : Params} {l : List Bool} (hl : l.length = p.ne) (hne : p.ne ≤ 8) :
    WithinEmask p (maskOf l) := by
  apply BitVec.eq_of_getLsbD_eq
  intro e _
  rw [BitVec.getLsbD_and, emask_getLsbD p e hne, maskOf_getLsbD l e (hl ▸ hne)]
  by_cases he : e < p.ne
  · simp [he]
  · simp [List.getD, he, hl]

/-- The rotation steps keep every mask within EMASK: the pulses are those of implemented encoders. -/
theorem tickLines_masksOk {s : State} {v : Planes} (now : Time)
    (hv : WithinEmask s.params v.a ∧ WithinEmask s.params v.b ∧ WithinEmask s.params v.s) (hm : s.MasksOk)
    (ev : TickEvent) :
    ({ s with qed := (tickLines s.params v now ⟨{ s.qed with lasttick := now }, ev⟩).qed } : State).MasksOk := by
  rcases tickLines_cases s.params v now ⟨{ s.qed with lasttick := now }, ev⟩ with ⟨-, e⟩ | ⟨-, e⟩ <;> rw [e]
  · exact hm
  · obtain ⟨hinv, hhalf, hwrap, -, -, -, hup, hdn, hqup, hqdn, hcnt, hmode, hcur, hpend, hlatch⟩ := hm
    obtain ⟨ha, hb, hs⟩ := hv
    obtain ⟨hpu, hpd⟩ := pulsesOf_within s.params v { s.qed with lasttick := now }
    exact ⟨hinv, hhalf, hwrap, ha, hb, hs, hup.or hpu, hdn.or hpd, hqup.or (hpu.and _), hqdn.or (hpd.and _),
      (hcnt.or hpu).or hpd, hmode, hcur, hpend, hlatch⟩

/-- The switch masks after a processed tick hold bits of the old ones and of the sampled pattern. -/
theorem tickSteps_masksOk {s : State} {v : Planes} (now : Time) (hs : s.Sized)
    (hv : WithinEmask s.params v.a ∧ WithinEmask s.params v.b ∧ WithinEmask s.params v.s) (hm : s.MasksOk) :
    ({ s with qed := (tickSteps s.params v now s.qed).qed } : State).MasksOk := by
  obtain ⟨⟨-, -, -, -, -, -, ⟨-, hne⟩, -⟩, -, -, -, -, -, hencs⟩ := hs
  have ⟨_, _, hvs⟩ := hv
  obtain ⟨l, swpend, swt0, swrun, swcur, lplatch, patt0, qlparm, _, _, _, _, _, hl, e, hsame, hdiff, -, -, -, -, -, -,
    hlatch⟩ := tickSteps_cases s.params v now s.qed
  have hlength : l.qed.encs.length = s.params.ne := by rw [hl, tickLines_length, hencs]
  obtain ⟨hinv, hhalf, hwrap, ha, hb, hps, hup, hdn, hqup, hqdn, hcnt, hmode, -⟩ :=
    tickLines_masksOk now hv hm TickEvent.zero
  obtain ⟨-, -, -, -, -, -, -, -, -, -, -, -, hcur, hpend, hlat⟩ := hm
  rw [← hl] at hinv hhalf hwrap ha hb hps hup hdn hqup hqdn hcnt hmode
  have hswitch : WithinEmask s.params swcur ∧ WithinEmask s.params swpend := by
    by_cases hpat : v.s = s.qed.swcur
    · obtain ⟨-, rfl, -, rfl⟩ := hsame hpat
      exact ⟨hcur, hpend⟩
    · obtain ⟨rfl, -, hrun, hexpired⟩ := hdiff hpat
      rcases Nat.lt_or_ge (elapsed s.params now swt0) s.params.swDebounce with hlt | hge
      · exact ⟨(hrun hlt).right ▸ hcur, hvs⟩
      · exact ⟨(hexpired hge).right ▸ hvs, hvs⟩
  obtain ⟨hcur', hpend'⟩ := hswitch
  have hlat' : WithinEmask s.params lplatch := by
    rcases hlatch with rfl | rfl | rfl | rfl
    · exact hlat
    · exact hlat.or hcur
    · exact hlat.and _
    · exact (hlat.and _).or hcur'
  rw [e]
  refine ⟨hinv, hhalf, hwrap, ha, hb, hps, hup, hdn, hqup, hqdn, hcnt, hmode.or ?_, hcur', hpend', hlat'⟩
  exact maskOf_within (by rw [List.length_mapIdx, hlength]) hne

theorem QedUpdate.masksOk {s : State} {i : Instr} {q : Qed} (h : QedUpdate s i q) (hs : s.Sized) (hm : s.MasksOk) :
    ({ s with qed := q } : State).MasksOk := by
  have hold := hm
  have hz := WithinEmask.zero s.params
  have hv := planesOf_within s
  obtain ⟨hinv, hhalf, hwrap, ha, hb, hps, hup, hdn, hqup, hqdn, hcnt, hmode, hcur, hpend, hlatch⟩ := hm
  cases h
  case keep => exact hold
  case reset => exact resetWith_masksOk s.params
  case config hi hh hw =>
    exact ⟨hi.within hinv, hh.within hhalf, hw.within hwrap, ha, hb, hps, hup, hdn, hqup, hqdn, hcnt, hmode, hcur,
      hpend, hlatch⟩
  case nmodes =>
    exact ⟨hinv, hhalf, hwrap, ha, hb, hps, hup, hdn, hqup, hqdn, hcnt, hmode.and _, hcur, hpend, hlatch⟩
  case load =>
    obtain ⟨hva, hvb, hvs⟩ := hv
    exact ⟨hinv, hhalf, hwrap, hva, hvb, hvs, hz, hz, hz, hz, hz, hz, hvs, hvs, hz⟩
  case tick =>
    rcases tick_cases s.params (planesOf s) (nowOf s) s.qed with ⟨-, e⟩ | ⟨-, e⟩ <;> rw [e]
    · exact hold
    · exact tickSteps_masksOk _ hs hv hold
  case rdacc => exact hold
  case rdabs =>
    exact ⟨hinv, hhalf, hwrap, ha, hb, hps, hup, hdn, hqup, hqdn, hcnt.and _, hmode, hcur, hpend, hlatch⟩
  case rdmode =>
    exact ⟨hinv, hhalf, hwrap, ha, hb, hps, hup, hdn, hqup, hqdn, hcnt, hmode.and _, hcur, hpend, hlatch⟩
  case rdtrn => exact ⟨hinv, hhalf, hwrap, ha, hb, hps, hz, hz, hz, hz, hcnt, hmode, hcur, hpend, hlatch⟩

/-! ## Switches and sticky flags -/

/-- A quick flag that is set together with its plain flag. -/
theorem quick_and_plain {quick plain : Byte} (h : quick &&& plain = quick) (pulses accelerated : Byte) :
    (quick ||| (pulses &&& accelerated)) &&& (plain ||| pulses) = quick ||| (pulses &&& accelerated) := by
  grind

/-- The rotation steps set a quick flag only with its plain flag, and leave the switches. -/
theorem tickLines_quick {p : Params} {v : Planes} {now : Time} {w : Tick}
    (hup : w.qed.chgqup &&& w.qed.chgup = w.qed.chgqup) (hdn : w.qed.chgqdn &&& w.qed.chgdn = w.qed.chgqdn) :
    (tickLines p v now w).qed.chgqup &&& (tickLines p v now w).qed.chgup = (tickLines p v now w).qed.chgqup ∧
    (tickLines p v now w).qed.chgqdn &&& (tickLines p v now w).qed.chgdn = (tickLines p v now w).qed.chgqdn := by
  rcases tickLines_cases p v now w with ⟨-, e⟩ | ⟨-, e⟩ <;> rw [e]
  · exact ⟨hup, hdn⟩
  · exact ⟨quick_and_plain hup _ _, quick_and_plain hdn _ _⟩

theorem tickSteps_switchesOk {s : State} (v : Planes) (now : Time) (hp : s.params.Legal) (hw : s.SwitchesOk) :
    ({ s with qed := (tickSteps s.params v now s.qed).qed } : State).SwitchesOk := by
  obtain ⟨-, -, -, -, -, -, -, -, -, -, -, -, -, ⟨hlpt, -⟩⟩ := hp
  obtain ⟨hlat, -, hup, hdn⟩ := hw
  obtain ⟨l, swpend, swt0, swrun, swcur, lplatch, patt0, qlparm, _, _, _, _, _, rfl, e, hsame, hdiff, -, -, -, -, hkept,
    hcommit, -⟩ := tickSteps_cases s.params v now s.qed
  obtain ⟨hup', hdn'⟩ := tickLines_quick (p := s.params) (v := v) (now := now)
    (w := ⟨{ s.qed with lasttick := now }, TickEvent.zero⟩) hup hdn
  rw [e]
  refine ⟨?latched, ?candidate, hup', hdn'⟩
  case latched =>
    change lplatch &&& swcur = lplatch
    by_cases hcur : swcur = s.qed.swcur
    · obtain ⟨-, hfires, hnofire⟩ := hkept hcur
      cases hf : patternFires s.params now s.qed
      · obtain ⟨-, rfl, -⟩ := hnofire hf
        rw [hcur, hlat]
      · obtain ⟨-, rfl, -⟩ := hfires hf
        rw [hcur, BitVec.and_or_distrib_right, hlat, BitVec.and_self]
    · obtain ⟨-, hlatch⟩ := hcommit hcur
      obtain ⟨rfl, -⟩ := hlatch hlpt
      rw [BitVec.and_assoc, BitVec.and_self]
  case candidate =>
    change swrun = true → swpend ≠ swcur
    intro hrun
    by_cases hpat : v.s = s.qed.swcur
    · obtain ⟨hstop, -⟩ := hsame hpat
      exact absurd (hrun.symm.trans hstop) Bool.noConfusion
    · obtain ⟨rfl, -, hwait, hexpired⟩ := hdiff hpat
      rcases Nat.lt_or_ge (elapsed s.params now swt0) s.params.swDebounce with hlt | hge
      · exact (hwait hlt).2 ▸ hpat
      · exact absurd (hrun.symm.trans (hexpired hge).1) Bool.noConfusion

theorem QedUpdate.switchesOk {s : State} {i : Instr} {q : Qed} (h : QedUpdate s i q) (hp : s.params.Legal)
    (hw : s.SwitchesOk) : ({ s with qed := q } : State).SwitchesOk := by
  cases h
  case reset => exact resetWith_switchesOk s.params
  case load => exact ⟨BitVec.zero_and, fun hrun => absurd hrun Bool.false_ne_true, BitVec.zero_and, BitVec.zero_and⟩
  case tick =>
    rcases tick_cases s.params (planesOf s) (nowOf s) s.qed with ⟨-, e⟩ | ⟨-, e⟩ <;> rw [e]
    · exact hw
    · exact tickSteps_switchesOk _ _ hp hw
  case rdtrn =>
    obtain ⟨hlat, hrun, -, -⟩ := hw
    exact ⟨hlat, hrun, BitVec.zero_and, BitVec.zero_and⟩
  all_goals exact hw

/-! ## Modes -/

/-- An encoder starts in a mode that is legal for its mode byte. -/
theorem initialMode_legal (x : Encoder) : ({ x with mode := initialMode x.nmodes } : Encoder).ModeLegal := by
  unfold initialMode
  rw [modeCount_toNat]
  split
  case isTrue hn =>
    exact ⟨fun _ => ⟨Nat.le_refl 1, Nat.le_of_succ_le hn⟩, fun _ => Nat.le_refl 1, fun h => by dsimp only at h; omega⟩
  case isFalse hn => exact ⟨fun h => absurd h hn, fun _ => Nat.zero_le 1, fun _ => rfl⟩

/-- Bit 7 of a mode byte, the cycle-on-long-press flag, is what the byte holds above its count. -/
theorem modeByte_getLsbD_seven (m : Byte) : m.getLsbD 7 = decide (128 ≤ m.toNat) := by
  have hlt := m.isLt
  rw [← BitVec.testBit_toNat, Nat.testBit_eq_decide_div_mod_eq]
  by_cases h : 128 ≤ m.toNat <;> simp [h] <;> omega

/-- What the mode step can do to the mode of an encoder: leave it; follow the switch of a momentary encoder; or
increment it for a cycling one (R191 to R193). -/
theorem nextMode_cases (wrap held shortp longp : Bool) (nmodes mode : Byte) :
    nextMode wrap held shortp longp nmodes mode = mode ∨
    (nmodes.toNat = 1 ∧ nextMode wrap held shortp longp nmodes mode = if held then 1#8 else 0#8) ∨
    (2 ≤ nmodes.toNat % 128 ∧
      nextMode wrap held shortp longp nmodes mode = incrementMode wrap (nmodes.toNat % 128) mode) := by
  unfold nextMode
  simp only [modeCount_toNat, modeByte_getLsbD_seven]
  by_cases h0 : nmodes.toNat % 128 = 0
  · exact .inl (if_pos h0)
  rw [if_neg h0]
  by_cases h1 : nmodes.toNat % 128 = 1
  · rw [if_pos h1]
    by_cases honlong : 128 ≤ nmodes.toNat
    · exact .inl (if_pos (decide_eq_true honlong))
    · exact .inr (.inl ⟨by omega, if_neg (by simpa using honlong)⟩)
  · rw [if_neg h1]
    by_cases hpress : (if decide (128 ≤ nmodes.toNat) = true then longp else shortp) = true
    · exact .inr (.inr ⟨by omega, if_pos hpress⟩)
    · exact .inl (if_neg hpress)

/-- A cycling encoder's mode stays in 1..n when it is incremented. -/
theorem incrementMode_bounds (wrap : Bool) {n : Nat} (hn : 2 ≤ n) (hlt : n < 128) (mode : Byte) :
    1 ≤ (incrementMode wrap n mode).toNat ∧ (incrementMode wrap n mode).toNat ≤ n := by
  rcases incrementMode_cases wrap n mode hlt with ⟨hm, e⟩ | ⟨-, -, e⟩ | ⟨-, -, e⟩ <;> rw [e]
  · omega
  · exact ⟨Nat.le_refl 1, Nat.le_of_succ_le hn⟩
  · omega

theorem nextMode_legal (wrap held shortp longp : Bool) {x : Encoder} (hx : x.ModeLegal) :
    ({ x with mode := nextMode wrap held shortp longp x.nmodes x.mode } : Encoder).ModeLegal := by
  rcases nextMode_cases wrap held shortp longp x.nmodes x.mode with e | ⟨hone, e⟩ | ⟨hn, e⟩ <;>
    simp only [Encoder.ModeLegal, e]
  · exact hx
  · refine ⟨fun h => by omega, fun _ => ?_, fun h => by omega⟩
    cases held <;> decide
  · have hbounds := incrementMode_bounds wrap hn (Nat.mod_lt _ (by decide)) x.mode
    exact ⟨fun _ => hbounds, fun h => by omega, fun h => by omega⟩

theorem tickSteps_modesLegal {p : Params} {v : Planes} {now : Time} {q : Qed} (h : ∀ x ∈ q.encs, x.ModeLegal) :
    ∀ x ∈ (tickSteps p v now q).qed.encs, x.ModeLegal := by
  intro x hx
  obtain ⟨y, hy, up, dn, z, wrap, held, shortp, longp, rfl, rfl⟩ := mem_tickSteps_encs hx
  apply nextMode_legal
  obtain ⟨hn, hm⟩ := rotateEncoder_modes p now up dn y
  rw [Encoder.ModeLegal, hn, hm]
  exact h y hy

theorem enc_modeLegal {q : Qed} (h : ∀ x ∈ q.encs, x.ModeLegal) (e : Nat) : (q.enc e).ModeLegal := by
  rcases enc_mem_or_reset q e with he | he
  · exact h _ he
  · rw [he]; decide

theorem QedUpdate.modesLegal {s : State} {i : Instr} {q : Qed} (h : QedUpdate s i q) (hm : s.ModesLegal) :
    ({ s with qed := q } : State).ModesLegal := by
  cases h
  case reset => exact resetWith_modesLegal s.params
  case nmodes e v =>
    intro x hx
    rcases mem_setEnc hx with rfl | hx
    · exact initialMode_legal { s.qed.enc e with nmodes := v.setWidth 8 }
    · exact hm x hx
  case load =>
    intro x hx
    obtain ⟨y, -, rfl⟩ := List.mem_map.mp hx
    exact initialMode_legal y.load
  case tick =>
    rcases tick_cases s.params (planesOf s) (nowOf s) s.qed with ⟨-, e⟩ | ⟨-, e⟩ <;> rw [e]
    · exact hm
    · exact tickSteps_modesLegal hm
  case rdacc e =>
    intro x hx
    rcases mem_setEnc hx with rfl | hx
    · exact enc_modeLegal hm e.toNat
    · exact hm x hx
  all_goals exact hm

/-! ## The obligations -/

/-- Settles O55, unit by unit: operands are cut or clamped to the widths, counts are cut to CW bits. -/
theorem everyStepKeepsSizesAndWidths : Obligations.EveryStepKeepsSizesAndWidths := fun s t hs hstep =>
  ⟨(step_invariant_of_units (fun _ => True) (fun h => h) (fun _ h _ _ _ => h) s t hs trivial hstep).1,
    fun h =>
      (step_invariant_of_units (·.InRange) (fun h => h)
        (fun hu h hd he hq => units_inRange hu.1 h hd he hq) s t hs h hstep).2⟩

/-- Settles O57: whatever an operation does to the EDS registers keeps the table (`EdsUpdate.bindingOk`). -/
theorem everyStepKeepsTheBindingTable : Obligations.EveryStepKeepsTheBindingTable := fun s t hs hb hstep =>
  (step_invariant_of_units (·.BindingOk) (fun h => h) (fun hu h _ he _ => he.bindingOk hu h) s t hs hb hstep).2

/-- Settles O58: a commit clears the lines that went inactive, and only active lines fire (`EdsUpdate.linesOk`). -/
theorem everyStepKeepsTheLineMasks : Obligations.EveryStepKeepsTheLineMasks := fun s t hs hl hstep =>
  (step_invariant_of_units (·.LinesOk) (fun h => h) (fun hu h _ he _ => he.linesOk hu h) s t hs hl hstep).2

/-- Settles O59: every mask is made of old masks, of planes cut to EMASK and of bits of implemented encoders
(`QedUpdate.masksOk`); a commit cuts the latch to the held switches (`QedUpdate.switchesOk`). -/
theorem everyStepKeepsTheEncoderMasks : Obligations.EveryStepKeepsTheEncoderMasks := fun s t hs hstep =>
  ⟨fun hm =>
      (step_invariant_of_units (·.MasksOk) (fun h => h) (fun hu h _ _ hq => hq.masksOk hu h)
        s t hs hm hstep).2,
    fun hw =>
      (step_invariant_of_units (·.SwitchesOk) (fun h => h)
        (fun hu h _ _ hq => hq.switchesOk hu.1 h) s t hs hw hstep).2⟩

/-- Settles O60: an encoder's mode is written by `initialMode` and `nextMode` only, which give legal modes. -/
theorem everyStepKeepsModesLegal : Obligations.EveryStepKeepsModesLegal := fun s t hs hm hstep =>
  (step_invariant_of_units (·.ModesLegal) (fun h => h) (fun _ h _ _ hq => hq.modesLegal h) s t hs hm hstep).2

/-- Settles O36: of what an operation can do to the table (`EdsUpdate.table`), `EDS.BIND` alone raises NBIND, and it
writes the slot at NBIND, which was not in use. -/
theorem bindingTableIsAppendOnly : Obligations.BindingTableIsAppendOnly := by
  intro s t w ports rest hs hb hp hrst hstep
  cases hd : decode w with
  | error e =>
    rw [step_of_decode_error hp hd, respond_next_iff] at hstep
    subst hstep
    exact ⟨Nat.le_refl _, fun _ _ => rfl, fun hne => absurd rfl hne⟩
  | ok i =>
    rw [step_of_decode_ok hp hd] at hstep
    obtain ⟨dbf, eds, qed, rs, rfl, -, he, -⟩ := exec_units hstep
    rcases he.table with ⟨rfl, -⟩ | ⟨hnbind, hslots, -⟩ | ⟨pin, rfl, hroom, -, rfl⟩
    · exact absurd hd hrst
    · exact ⟨Nat.le_of_eq (congrArg _ hnbind.symm), fun j _ => slot_of_slots_eq hslots j, fun hne => absurd hnbind hne⟩
    · obtain ⟨-, hsucc⟩ := nbind_append_toNat hs hb hroom
      have hrises : s.eds.nbind.toNat ≤ (s.eds.nbind + 1#8).toNat := hsucc ▸ Nat.le_succ _
      exact ⟨hrises, fun j hj => slot_append_ne _ _ j (Nat.ne_of_lt hj), fun _ => ⟨pin, rfl, hsucc⟩⟩

/-- Settles O53: an operation of one unit leaves the other two as they are, and a filter operation writes the filter it
names. -/
theorem unitsWriteOnlyTheirOwnRegisters : Obligations.UnitsWriteOnlyTheirOwnRegisters := by
  intro s t k
  refine ⟨fun h => ?dbf, fun h => ?eds, fun h => ?qed⟩
  case dbf =>
    rcases h with h | h | h
    all_goals
      obtain ⟨dbf, eds, qed, rs, rfl, hd, he, hq⟩ := exec_units h
      cases he; cases hq
      refine ⟨rfl, rfl, fun f hf => ?_⟩
      cases hd
    case load => exact filter_setFilter_ne s k.toNat f _ hf
    case update => exact filter_setFilter_ne s k.toNat f _ hf
    all_goals rfl
  case eds =>
    rcases h with h | h | h | h
    all_goals
      obtain ⟨dbf, eds, qed, rs, rfl, hd, -, hq⟩ := exec_units h
      cases hd; cases hq
      exact ⟨rfl, rfl⟩
  case qed =>
    rcases h with h | h | h | h | h | h
    all_goals
      obtain ⟨dbf, eds, qed, rs, rfl, hd, he, -⟩ := exec_units h
      cases hd; cases he
      exact ⟨rfl, rfl⟩

/-- Settles O9: both resets leave `State.resetBlock`, which is the reset state but for the record of the command
port. -/
theorem hardwareResetResetsEveryRegister : Obligations.HardwareResetResetsEveryRegister := by
  intro s
  refine ⟨fun rest h => ?_, _, exec_rst s, rfl, rfl, rfl⟩
  rw [step_of_hardReset h, resetBlock_eq]

/-- Settles O10: the three units hold `Filter.reset`, `Eds.reset` and `Qed.reset`, whose fields are R63's table. -/
theorem resetValuesOfEveryRegister : Obligations.ResetValuesOfEveryRegister := by
  intro p t h
  obtain ⟨hd, he, hq⟩ := units_of_reset h
  have hrep {α : Type} (x : α) (n i : Nat) (hi : i < n) : (List.replicate n x)[i]? = some x :=
    List.getElem?_replicate_of_lt hi
  rw [hd, he, hq]
  exact ⟨hrep _ _, ⟨rfl, rfl, rfl, rfl⟩, fun b hb => ⟨hrep _ _ b hb, hrep _ _ b hb, hrep _ _ b hb⟩,
    ⟨rfl, rfl, rfl, rfl, rfl, rfl⟩, ⟨rfl, rfl⟩, hrep _ _, ⟨rfl, rfl, rfl⟩, hrep _ _, ⟨rfl, rfl⟩,
    ⟨rfl, rfl, rfl, rfl, rfl, rfl⟩, rfl, rfl, rfl, rfl, rfl, rfl, rfl⟩

end Sys2Proof.Machine
end

section
/-! PROOFS of the statements on the memory and the register space (20_memory.md): the unpacking of the vectors (R74,
R75), the register numbers (R71 to R73), the port bits that no operation uses, and runs over a list of host events. -/

namespace Sys2Proof.Machine

/-! ## The register numbers (R71) -/

/-- The register exists with parameters `p`. -/
def Reg.Implemented (p : Params) : Reg → Prop
  | .policy f | .window f | .out f => f < p.nf
  | .cur b => b < p.nb
  | .nmodes e => e < p.ne
  | _ => True

/-- The number R71 gives a register. -/
def Reg.number : Reg → Nat
  | .policy f => 0x40 + 4 * f
  | .window f => 0x41 + 4 * f
  | .out f => 0x42 + 4 * f
  | .debounce => 0x80
  | .repdly => 0x81
  | .repint => 0x82
  | .lpdly => 0x83
  | .nbind => 0x84
  | .cur b => 0x90 + b
  | .inv => 0xC0
  | .half => 0xC1
  | .modewrap => 0xC2
  | .swcur => 0xC3
  | .lplatch => 0xC4
  | .nmodes e => 0xC8 + e

/-- The numbers R71 leaves reserved with parameters `p`. -/
def ReservedNumber (p : Params) (n : Nat) : Prop :=
  n < 0x40 ∨ (∃ f < 16, n = 0x43 + 4 * f) ∨ (0x40 + 4 * p.nf ≤ n ∧ n < 0x80) ∨ (0x85 ≤ n ∧ n ≤ 0x8F) ∨
    (0x90 + p.nb ≤ n ∧ n ≤ 0xBF) ∨ (0xC5 ≤ n ∧ n ≤ 0xC7) ∨ 0xC8 + p.ne ≤ n

/-- Within the block of filter `f`, the offset selects the register. -/
theorem dbfReg_block {p : Params} {f off : Nat} (hf : f < p.nf) (hoff : off < 4) :
    dbfReg p (0x40 + off + 4 * f) = filterReg f off := by
  have hrange : 0x40 ≤ 0x40 + off + 4 * f ∧ 0x40 + off + 4 * f < 0x40 + 4 * p.nf := by omega
  have hdiv : (0x40 + off + 4 * f - 0x40) / 4 = f := by omega
  have hmod : (0x40 + off + 4 * f - 0x40) % 4 = off := by omega
  rw [dbfReg, if_pos hrange, hdiv, hmod]

theorem regOf_of_dbf {p : Params} {k : Byte} {f off : Nat} (hp : p.Legal) (hf : f < p.nf) (hoff : off < 4)
    (hk : k.toNat = 0x40 + off + 4 * f) : regOf p k = filterReg f off := by
  obtain ⟨-, ⟨-, hnf⟩, -⟩ := hp
  rw [regOf, if_pos (by omega), hk, dbfReg_block hf hoff]

theorem regOf_of_eds {p : Params} {k : Byte} (hlo : 0x80 ≤ k.toNat) (hhi : k.toNat < 0xC0) :
    regOf p k = edsReg p k.toNat := by
  rw [regOf, if_neg (by omega), if_pos hhi]

theorem regOf_of_qed {p : Params} {k : Byte} (hlo : 0xC0 ≤ k.toNat) : regOf p k = qedReg p k.toNat := by
  rw [regOf, if_neg (by omega), if_neg (by omega)]

theorem edsReg_cur {p : Params} {b : Nat} (hb : b < p.nb) : edsReg p (0x90 + b) = some (.cur b) := by
  simp (disch := omega) only [edsReg, if_neg, if_pos, Nat.add_sub_cancel_left]

theorem qedReg_nmodes {p : Params} {e : Nat} (he : e < p.ne) : qedReg p (0xC8 + e) = some (.nmodes e) := by
  simp (disch := omega) only [qedReg, if_neg, if_pos, Nat.add_sub_cancel_left]

/-- An implemented register is found under its number. -/
theorem regOf_number {p : Params} {k : Byte} {r : Reg} (hp : p.Legal) (hr : r.Implemented p)
    (hk : k.toNat = r.number) : regOf p k = some r := by
  have ⟨_, _, _, _, ⟨_, hnb⟩, _⟩ := hp
  cases r
  case policy f => exact regOf_of_dbf (off := 0) hp hr (by decide) hk
  case window f => exact regOf_of_dbf (off := 1) hp hr (by decide) hk
  case out f => exact regOf_of_dbf (off := 2) hp hr (by decide) hk
  all_goals simp only [Reg.number, Reg.Implemented] at hk hr
  case cur b => rw [regOf_of_eds (by omega) (by omega), hk, edsReg_cur hr]
  case nmodes e => rw [regOf_of_qed (by omega), hk, qedReg_nmodes hr]
  case inv | half | modewrap | swcur | lplatch => rw [regOf_of_qed (by omega), hk]; rfl
  all_goals rw [regOf_of_eds (by omega) (by omega), hk]; rfl

/-- A register that a number reaches is implemented and has that number. -/
theorem number_of_regOf {p : Params} {k : Byte} {r : Reg} (hp : p.Legal) (h : regOf p k = some r) :
    r.Implemented p ∧ k.toNat = r.number := by
  rcases regOf_cases p k hp with ⟨f, hf, hk, e⟩ | ⟨f, hf, hk, e⟩ | ⟨f, hf, hk, e⟩ | ⟨hk, e⟩ | ⟨hk, e⟩ | ⟨hk, e⟩ |
    ⟨hk, e⟩ | ⟨hk, e⟩ | ⟨b, hb, hk, e⟩ | ⟨hk, e⟩ | ⟨hk, e⟩ | ⟨hk, e⟩ | ⟨hk, e⟩ | ⟨hk, e⟩ | ⟨i, hi, hk, e⟩ | ⟨-, e⟩
  all_goals rw [e] at h; cases h
  all_goals simp only [Reg.Implemented, Reg.number, *, and_self]

/-- No implemented register has a reserved number. -/
theorem not_reservedNumber_number {p : Params} {r : Reg} (hp : p.Legal) (hr : r.Implemented p) :
    ¬ ReservedNumber p r.number := by
  obtain ⟨-, ⟨-, hnf⟩, -, -, ⟨-, hnb⟩, -, ⟨-, hne⟩, -⟩ := hp
  rintro (h | ⟨f, hf, h⟩ | h)
  all_goals
    cases r
    all_goals simp only [Reg.number, Reg.Implemented] at h hr; omega

theorem regOf_reserved {p : Params} {k : Byte} (hp : p.Legal) (h : ReservedNumber p k.toNat) : regOf p k = none := by
  refine Option.eq_none_iff_forall_ne_some.mpr fun r hr => ?_
  obtain ⟨himplemented, hk⟩ := number_of_regOf hp hr
  exact not_reservedNumber_number hp himplemented (hk ▸ h)

/-! ## RD and WR by number (R72, R73) -/

theorem exec_rd (k : Byte) (s : State) : exec (.rd k) s = .next (s.answered (readNumber s k) false) := rfl

theorem exec_wr (k : Byte) (s : State) :
    exec (.wr k) s = .next ((writeNumber s k s.ports.wdata).answered 0#32 false) := rfl

theorem readNumber_number {s : State} {k : Byte} {r : Reg} (hp : s.params.Legal) (hr : r.Implemented s.params)
    (hk : k.toNat = r.number) : readNumber s k = readReg s r := by
  rw [readNumber, regOf_number hp hr hk]

theorem readNumber_reserved {s : State} {k : Byte} (hp : s.params.Legal) (h : ReservedNumber s.params k.toNat) :
    readNumber s k = 0#32 := by
  rw [readNumber, regOf_reserved hp h]

theorem writeNumber_number {s : State} {k : Byte} {r : Reg} (hp : s.params.Legal) (hr : r.Implemented s.params)
    (hk : k.toNat = r.number) (v : Word) : writeNumber s k v = writeReg s r v := by
  rw [writeNumber, regOf_number hp hr hk]

theorem writeNumber_reserved {s : State} {k : Byte} (hp : s.params.Legal) (h : ReservedNumber s.params k.toNat)
    (v : Word) : writeNumber s k v = s := by
  rw [writeNumber, regOf_reserved hp h]

/-- The registers that only the block itself writes (R71). -/
def Reg.ReadOnly : Reg → Prop
  | .out _ | .nbind | .cur _ | .swcur | .lplatch => True
  | _ => False

theorem writeReg_readOnly (s : State) {r : Reg} (h : r.ReadOnly) (v : Word) : writeReg s r v = s := by
  cases r
  case out | nbind | cur | swcur | lplatch => rfl
  all_goals exact h.elim

/-- `WR` of a read-only register gives the zero response and nothing else (R73, R112). -/
theorem exec_wr_readOnly {s : State} {k : Byte} {r : Reg} (hp : s.params.Legal) (hr : r.Implemented s.params)
    (hk : k.toNat = r.number) (hro : r.ReadOnly) : exec (.wr k) s = .next (s.answered 0#32 false) := by
  rw [exec_wr, writeNumber_number hp hr hk, writeReg_readOnly s hro]

/-! ## The ports that an operation reads -/

/-- The state with other port values sampled. -/
def State.withPorts (s : State) (q : Ports) : State := { s with ports := q }

@[simp] theorem State.withPorts_params (s : State) (q : Ports) : (s.withPorts q).params = s.params := rfl
@[simp] theorem State.withPorts_ports (s : State) (q : Ports) : (s.withPorts q).ports = q := rfl

/-- The ports `q` carry the operands that `s` has sampled: the whole of `wdata` and the cut values of the others
(R96). -/
structure SameOperands (s : State) (q : Ports) : Prop where
  wdata : q.wdata = s.ports.wdata
  now : nowOf (s.withPorts q) = nowOf s
  rawBanks : rawBanksOf (s.withPorts q) = rawBanksOf s
  planes : planesOf (s.withPorts q) = planesOf s

theorem SameOperands.scalar {s : State} {q : Ports} (h : SameOperands s q) :
    scalarOf (s.withPorts q) = scalarOf s := by
  simp only [scalarOf, State.withPorts_params, State.withPorts_ports, h.wdata]

theorem SameOperands.bypass {s : State} {q : Ports} (h : SameOperands s q) :
    bypassOf (s.withPorts q) = bypassOf s := by
  simp only [bypassOf, State.withPorts_ports, h.wdata]

theorem readNumber_withPorts (s : State) (q : Ports) (k : Byte) :
    readNumber (s.withPorts q) k = readNumber s k := by
  simp only [readNumber, State.withPorts_params]
  split
  case h_1 r _ => cases r <;> rfl
  case h_2 => rfl

theorem writeNumber_withPorts (s : State) (q : Ports) (k : Byte) (v : Word) :
    writeNumber (s.withPorts q) k v = (writeNumber s k v).withPorts q := by
  simp only [writeNumber, State.withPorts_params]
  split
  case h_2 => rfl
  case h_1 r _ =>
    cases r
    case policy f => simp only [writeReg, writePolicy]; split <;> rfl
    all_goals rfl

/-- Two outcomes that are one response given in one state, but that the second state holds the ports `q`. -/
def AnswersAlike (q : Ports) (o o' : Host.Outcome State Fault Refusal) : Prop :=
  ∃ u r, o = respond u r ∧ o' = respond (u.withPorts q) r

theorem AnswersAlike.respond (q : Ports) (u : State) (r : Response) :
    AnswersAlike q (respond u r) (respond (u.withPorts q) r) := ⟨u, r, rfl, rfl⟩

theorem AnswersAlike.ite {q : Ports} {c : Prop} [Decidable c] {a b a' b' : Host.Outcome State Fault Refusal}
    (ha : AnswersAlike q a a') (hb : AnswersAlike q b b') :
    AnswersAlike q (if c then a else b) (if c then a' else b') := by
  split
  · exact ha
  · exact hb

/-- An operation reads its operands and nothing else of the ports: from equal operands come the same response and the
same state, but for the ports themselves. -/
theorem exec_withPorts {s : State} {q : Ports} (h : SameOperands s q) (i : Instr) :
    AnswersAlike q (exec i s) (exec i (s.withPorts q)) := by
  cases i
  case nop | rst | qedRdtrn => exact .respond q _ _
  case rd k => simp only [exec, execRd, readNumber_withPorts]; exact .respond q _ _
  case wr k =>
    simp only [exec, execWr, State.withPorts_ports, h.wdata, writeNumber_withPorts]; exact .respond q _ _
  case dbfInit f => simp only [exec, execDbfInit, h.scalar]; exact .ite (.respond q _ _) (.respond q _ _)
  case dbfUpd f => simp only [exec, execDbfUpd, h.scalar, h.now]; exact .ite (.respond q _ _) (.respond q _ _)
  case edsInit => simp only [exec, execEdsInit, h.rawBanks, h.now]; exact .respond q _ _
  case edsPoll => simp only [exec, execEdsPoll, h.rawBanks, h.now]; exact .respond q _ _
  case edsBind pin =>
    simp only [exec, execEdsBind, h.bypass]
    exact .ite (.respond q _ _) (.ite (.respond q _ _) (.respond q _ _))
  case qedInit => simp only [exec, execQedInit, h.planes, h.now]; exact .respond q _ _
  case qedUpd => simp only [exec, execQedUpd, h.planes, h.now]; exact .respond q _ _
  case dbfStat | edsNext | qedRdacc | qedRdabs | qedRdmode => exact .ite (.respond q _ _) (.respond q _ _)

/-! ## The bits that the operands are made of -/

theorem nowOf_withPorts {s : State} {q : Ports} (htw : s.params.tw ≤ 64)
    (h : q.now.toNat % 2 ^ s.params.tw = s.ports.now.toNat % 2 ^ s.params.tw) :
    nowOf (s.withPorts q) = nowOf s :=
  keepLow_congr s.params.tw q.now s.ports.now htw h

/-- The banks depend on the low `8*NB` bits of the button vector only (R74). -/
theorem rawBanksOf_withPorts {s : State} {q : Ports}
    (h : ∀ b < s.params.npin, q.rawBtn.getLsbD b = s.ports.rawBtn.getLsbD b) :
    rawBanksOf (s.withPorts q) = rawBanksOf s := by
  refine List.map_congr_left fun b hb => BitVec.eq_of_getLsbD_eq fun p hp => ?_
  have hin : 8 * b + p < s.params.npin := by
    have := List.mem_range.mp hb
    simp only [State.withPorts_params] at this
    simp only [Params.npin]; omega
  rw [rawBank_getLsbD _ _ _ hp, rawBank_getLsbD _ _ _ hp]
  exact h _ hin

/-- The planes depend on the line bits of implemented encoders only (R75). -/
theorem planesOf_withPorts {s : State} {q : Ports} (hne : s.params.ne ≤ 8)
    (h : ∀ e < s.params.ne, q.rawEnc.getLsbD e = s.ports.rawEnc.getLsbD e ∧
      q.rawEnc.getLsbD (8 + e) = s.ports.rawEnc.getLsbD (8 + e) ∧
      q.rawEnc.getLsbD (16 + e) = s.ports.rawEnc.getLsbD (16 + e)) :
    planesOf (s.withPorts q) = planesOf s := by
  have hbit (off : Nat) (hoff : ∀ e < s.params.ne, q.rawEnc.getLsbD (off + e) = s.ports.rawEnc.getLsbD (off + e)) :
      q.rawEnc.extractLsb' off 8 &&& s.params.emask = s.ports.rawEnc.extractLsb' off 8 &&& s.params.emask := by
    refine BitVec.eq_of_getLsbD_eq fun e he => ?_
    simp only [BitVec.getLsbD_and, BitVec.getLsbD_extractLsb', emask_getLsbD _ _ hne]
    by_cases hlt : e < s.params.ne
    · rw [hoff e hlt]
    · simp only [hlt, decide_false, Bool.and_false]
  simp only [planesOf, unpack, State.withPorts_params, State.withPorts_ports, Planes.mk.injEq]
  refine ⟨hbit 16 fun e he => ?_, hbit 8 fun e he => ?_, hbit 0 fun e he => ?_⟩
  · exact (h e he).2.2
  · exact (h e he).2.1
  · rw [Nat.zero_add]; exact (h e he).1

/-! ## Runs over the pending events (R80, R269) -/

/-- The commands among some host events: all but the hardware resets, which give no response. -/
def commandsAmong (events : List HostEvent) : List HostEvent := events.filter (fun e => e != HostEvent.hardReset)

theorem commandsAmong_cons_length (ev : HostEvent) (rest : List HostEvent) :
    (commandsAmong (ev :: rest)).length = (commandsAmong [ev]).length + (commandsAmong rest).length := by
  rw [← List.length_append, commandsAmong, commandsAmong, commandsAmong, ← List.filter_append, List.singleton_append]

/-- One step takes one event and, if the event is a command, adds one response. -/
theorem step_takes_event {s : State} {ev : HostEvent} {rest : List HostEvent} (hp : s.pending = ev :: rest) :
    ∃ t rs, step s = .next t ∧ t.pending = rest ∧ t.params = s.params ∧ t.responses = s.responses ++ rs ∧
      rs.length = (commandsAmong [ev]).length := by
  cases ev with
  | hardReset => exact ⟨_, [], step_of_hardReset hp, rfl, rfl, (List.append_nil _).symm, rfl⟩
  | command w ports =>
    obtain ⟨t, r, hstep, hresponses, hparams, hpending, -⟩ := everyCommandCompletesWithOneResponse s w ports rest hp
    exact ⟨t, [r], hstep, hpending, hparams, hresponses, rfl⟩

/-- By induction on the events: the run takes them all and adds the responses of the commands among them. -/
theorem run_takes_events (events : List HostEvent) : ∀ s : State, s.pending = events →
    ∃ t rs, Sys2Proof.core.run events.length s = .next t ∧ t.pending = [] ∧ t.params = s.params ∧
      t.responses = s.responses ++ rs ∧ rs.length = (commandsAmong events).length := by
  induction events with
  | nil => exact fun s hp => ⟨s, [], run_zero s, hp, rfl, (List.append_nil _).symm, rfl⟩
  | cons ev rest ih =>
    intro s hp
    obtain ⟨u, rs, hstep, hpu, hparamsu, hrespu, hlenu⟩ := step_takes_event hp
    obtain ⟨t, rs', hrun, hpt, hparamst, hrespt, hlent⟩ := ih u hpu
    refine ⟨t, rs ++ rs', (run_succ _ s u hstep).trans hrun, hpt, hparamst.trans hparamsu, ?_, ?_⟩
    · rw [hrespt, hrespu, List.append_assoc]
    · rw [commandsAmong_cons_length, List.length_append, hlenu, hlent]

/-! ## The obligations -/

/-- Settles O8: the run over the pending events, with the added responses named. -/
theorem runOverAnyEventListCompletes : Obligations.RunOverAnyEventListCompletes := by
  intro s
  obtain ⟨t, rs, hrun, hpending, hparams, hresponses, hlength⟩ := run_takes_events s.pending s rfl
  refine ⟨t, hrun, hpending, hparams, ⟨rs, hresponses.symm⟩, ?_⟩
  rw [hresponses, List.length_append, hlength, commandsAmong]

/-- Settles O12, from the laws of the operand readings, with the bound R6 puts on NE. -/
theorem vectorsAreUnpackedByBankAndPlane : Obligations.VectorsAreUnpackedByBankAndPlane := by
  intro s hlegal
  obtain ⟨-, -, -, -, -, -, ⟨-, hne⟩, -⟩ := hlegal
  refine ⟨rawBanksOf_length s, fun b hb p hp => ?_, fun e => planesOf_a_getLsbD s e hne,
    fun e => planesOf_b_getLsbD s e hne, fun e => planesOf_s_getLsbD s e hne⟩
  rw [rawBanksOf_getD s b hb, rawBank_getLsbD _ _ _ hp]

/-- Settles O15: each number is looked up by `readNumber_number`, the reserved ones by `readNumber_reserved`. -/
theorem rdReturnsTheNumberedRegister : Obligations.RdReturnsTheNumberedRegister := by
  refine ⟨fun k => decode_append _ k, fun s k hp =>
    ⟨readNumber s k, exec_rd k s, fun f hf => ⟨fun hk => ?_, ?_, ?_⟩, ?_⟩⟩
  · rw [readNumber_number (r := .policy f) hp hf hk, readReg]
    cases (s.filter f).policy <;> rfl
  · exact readNumber_number (r := .window f) hp hf
  · exact readNumber_number (r := .out f) hp hf
  · exact ⟨readNumber_number (r := .debounce) hp trivial, readNumber_number (r := .repdly) hp trivial,
      readNumber_number (r := .repint) hp trivial, readNumber_number (r := .lpdly) hp trivial,
      readNumber_number (r := .nbind) hp trivial, fun b hb => readNumber_number (r := .cur b) hp hb,
      readNumber_number (r := .inv) hp trivial, readNumber_number (r := .half) hp trivial,
      readNumber_number (r := .modewrap) hp trivial, readNumber_number (r := .swcur) hp trivial,
      readNumber_number (r := .lplatch) hp trivial, fun e he => readNumber_number (r := .nmodes e) hp he,
      readNumber_reserved hp⟩

/-- Settles O17: the read-only registers one by one, and the reserved numbers together. -/
theorem wrToReadOnlyOrReservedIsIgnored : Obligations.WrToReadOnlyOrReservedIsIgnored := by
  refine ⟨fun k => decode_append _ k, fun s k hp h => ?_⟩
  rcases h with ⟨f, hf, hk⟩ | hk | ⟨b, hb, hk⟩ | hk | hk | hreserved
  · exact exec_wr_readOnly (r := .out f) hp hf hk trivial
  · exact exec_wr_readOnly (r := .nbind) hp trivial hk trivial
  · exact exec_wr_readOnly (r := .cur b) hp hb hk trivial
  · exact exec_wr_readOnly (r := .swcur) hp trivial hk trivial
  · exact exec_wr_readOnly (r := .lplatch) hp trivial hk trivial
  · rw [exec_wr, writeNumber_reserved hp hreserved]

/-- Settles O52: ports that agree in the bits in use carry the same operands, and the operands are all that an operation
reads. -/
theorem unusedPortBitsAreIgnored : Obligations.UnusedPortBitsAreIgnored := by
  intro i s q hlegal hwdata hnow hbtn henc
  obtain ⟨⟨-, htw⟩, -, -, -, -, -, ⟨-, hne⟩, -⟩ := hlegal
  have hsame : SameOperands s q :=
    ⟨hwdata, nowOf_withPorts htw hnow, rawBanksOf_withPorts hbtn, planesOf_withPorts hne henc⟩
  obtain ⟨u, r, hs, hq⟩ := exec_withPorts hsame i
  exact ⟨_, hs, hq⟩

end Sys2Proof.Machine
end

section
/-! PROOFS of the statements on the encoding (30_encoding.md): the decoder against the encoder and the opcode map (R93 to
R95), the operations that do not read `now` (R91), and the scaled bytes of the pseudo-instructions (R97, R99). -/

namespace Sys2Proof

/-! ## The opcode map (R93 to R95) -/

/-- The opcodes that R94 leaves reserved. -/
def ReservedOpcode (op : Byte) : Prop :=
  (0x04 ≤ op.toNat ∧ op.toNat ≤ 0x0F) ∨ (0x13 ≤ op.toNat ∧ op.toNat ≤ 0x1F) ∨
    (0x24 ≤ op.toNat ∧ op.toNat ≤ 0x2F) ∨ 0x36 ≤ op.toNat

/-- The operations that ignore the index field (R95). -/
def Instr.IgnoresIndex (i : Instr) : Prop :=
  i = .nop ∨ i = .rst ∨ i = .edsInit ∨ i = .edsPoll ∨ i = .edsNext ∨ i = .qedInit ∨ i = .qedUpd ∨ i = .qedRdtrn

theorem indexOf_of_ignoresIndex {i : Instr} (h : i.IgnoresIndex) : indexOf i = 0#8 := by
  rcases h with rfl | rfl | rfl | rfl | rfl | rfl | rfl | rfl <;> rfl

theorem opcodeOf_not_reserved (i : Instr) : ¬ ReservedOpcode (opcodeOf i) := by
  cases i <;> simp [ReservedOpcode, opcodeOf]

/-- Every word the encoder emits decodes to its operation, by the row of R93 for its opcode. -/
theorem decode_encode (i : Instr) : decode (encode i) = .ok i := by
  cases i <;> exact decode_append _ _

/-- The decoder, said once: a word has the opcode of an operation, whose index it holds unless the operation ignores it;
or its opcode is reserved and it is rejected. -/
theorem decode_cases (w : CommandWord) :
    (∃ i, decode w = .ok i ∧ opcodeOf i = opField w ∧ (indexOf i = indexField w ∨ i.IgnoresIndex)) ∨
    (ReservedOpcode (opField w) ∧ decode w = .error (.reserved (opField w))) := by
  unfold decode
  split
  case h_2 hop | h_3 hop | h_5 hop | h_6 hop | h_7 hop | h_10 hop | h_14 hop | h_15 hop | h_16 hop =>
    exact .inl ⟨_, rfl, hop.symm, .inl rfl⟩
  case h_1 hop | h_4 hop | h_8 hop | h_9 hop | h_11 hop | h_12 hop | h_13 hop | h_17 hop =>
    exact .inl ⟨_, rfl, hop.symm, .inr (by simp [Instr.IgnoresIndex])⟩
  case h_18 =>
    refine .inr ⟨?_, rfl⟩
    simp only [ReservedOpcode, imp_false, ← BitVec.toNat_inj, BitVec.toNat_ofNat] at *
    omega

theorem decode_ok_fields {w : CommandWord} {i : Instr} (h : decode w = .ok i) :
    opcodeOf i = opField w ∧ (indexOf i = indexField w ∨ i.IgnoresIndex) := by
  rcases decode_cases w with ⟨j, hj, hfields⟩ | ⟨-, herror⟩
  · cases hj.symm.trans h; exact hfields
  · cases herror.symm.trans h

/-- The decoder rejects the reserved opcodes and no other. -/
theorem decode_error_iff (w : CommandWord) :
    ReservedOpcode (opField w) ↔ decode w = .error (.reserved (opField w)) := by
  rcases decode_cases w with ⟨i, hok, hop, -⟩ | ⟨hreserved, herror⟩
  · rw [← hop, hok]
    exact iff_of_false (opcodeOf_not_reserved i) nofun
  · exact iff_of_true hreserved herror

/-- The operations that R91 lets read the port `now`. -/
def Instr.ReadsNow (i : Instr) : Prop :=
  i = .edsInit ∨ i = .edsPoll ∨ i = .qedInit ∨ i = .qedUpd ∨ ∃ f, i = .dbfUpd f

end Sys2Proof

namespace Sys2Proof.Machine

/-! ## The operations that do not read `now` (R91) -/

/-- Another `now` gives the same response and the same state, but for the port itself. -/
theorem exec_with_other_now {i : Instr} (h : ¬ i.ReadsNow) (s : State) (time : Time) :
    AnswersAlike { s.ports with now := time } (exec i s) (exec i (s.withPorts { s.ports with now := time })) := by
  cases i
  case edsInit | edsPoll | qedInit | qedUpd | dbfUpd => exact absurd h (by simp [Instr.ReadsNow])
  case nop | rst | qedRdtrn => exact .respond _ _ _
  case rd k => simp only [exec, execRd, readNumber_withPorts]; exact .respond _ _ _
  case wr k => simp only [exec, execWr, State.withPorts_ports, writeNumber_withPorts]; exact .respond _ _ _
  case edsBind pin => exact .ite (.respond _ _ _) (.ite (.respond _ _ _) (.respond _ _ _))
  case dbfInit | dbfStat | edsNext | qedRdacc | qedRdabs | qedRdmode => exact .ite (.respond _ _ _) (.respond _ _ _)

/-! ## Scaled bytes and the lines that use them (R97, R99) -/

/-- Where the rounded quotient is from 1 to 255, it is the byte: neither clamp of R97 applies. -/
theorem scaledByte_eq_div {unit ms : Nat} (hunit : 0 < unit) (hlo : unit ≤ ms + unit / 2)
    (hhi : ms + unit / 2 < 256 * unit) : scaledByte unit ms = (ms + unit / 2) / unit := by
  have hpos : 1 ≤ (ms + unit / 2) / unit := (Nat.one_le_div_iff hunit).mpr hlo
  have hbyte : (ms + unit / 2) / unit < 256 := (Nat.div_lt_iff_lt_mul hunit).mpr hhi
  rw [scaledByte, if_neg (by omega)]
  omega

/-- Within the range of a byte the result is the nearest multiple of the unit, ties upward. -/
theorem scaledByte_nearest {unit ms : Nat} (hunit : 0 < unit) (hlo : unit ≤ ms + unit / 2)
    (hhi : ms + unit / 2 < 256 * unit) :
    unit * scaledByte unit ms ≤ ms + unit / 2 ∧ ms + unit / 2 < unit * (scaledByte unit ms + 1) := by
  rw [scaledByte_eq_div hunit hlo hhi]
  exact ⟨Nat.mul_div_le _ _, Nat.lt_mul_div_succ _ hunit⟩

/-- A write to a register that has a number is the `WR` of that number, with the value in `wdata` and the other ports
zero. -/
theorem writeCommand_of_regNumber {r : Reg} {k : Nat} (hr : regNumber r = some k) (hk : k < 256) (v : Nat) :
    writeCommand r v = some (.command (encode (.wr (BitVec.ofNat 8 k))) ⟨BitVec.ofNat 32 v, 0#64, 0#128, 0#32⟩) := by
  rw [writeCommand, numberedCommand, hr, Option.bind_some, indexedCommand, if_pos hk]
  rfl

theorem setLine_repdly (ms : Nat) : setLine "SET.REPDLY" ms = writeCommand .repdly (q100 ms) := by simp [setLine]

theorem setLine_repint (ms : Nat) : setLine "SET.REPINT" ms = writeCommand .repint (q10 ms) := by simp [setLine]

theorem setLine_lpdly (ms : Nat) : setLine "SET.LPDLY" ms = writeCommand .lpdly (q100 ms) := by simp [setLine]

/-! ## The obligations -/

/-- Settles O1, by `decode_encode`: every operation is well formed, so that hypothesis is not used. -/
theorem decodeOfEncodeIsTheOperation : Obligations.DecodeOfEncodeIsTheOperation := fun i _ => decode_encode i

/-- Settles O2: the decoder reads a word field by field, and the fields of a word that decodes are those of its operation,
but for an ignored index. -/
theorem ignoredIndexFieldHas256Encodings : Obligations.IgnoredIndexFieldHas256Encodings := by
  refine ⟨fun k => ⟨decode_append _ k, decode_append _ k, decode_append _ k, decode_append _ k, decode_append _ k,
    decode_append _ k, decode_append _ k, decode_append _ k⟩, by decide, fun w i h => ?_⟩
  obtain ⟨hop, hindex | hignores⟩ := decode_ok_fields h
  · left; rw [encode, hop, hindex, opField_append_indexField]
  · right; exact ⟨hignores, by rw [encode, hop, indexOf_of_ignoresIndex hignores]⟩

/-- Settles O51: the operations that do not read `now` answer alike under another one. -/
theorem untimedOperationsIgnoreNow : Obligations.UntimedOperationsIgnoreNow := by
  intro i s time hinit hpoll hload htick hupdate
  have huntimed : ¬ i.ReadsNow := by
    rintro (h | h | h | h | ⟨f, h⟩)
    exacts [hinit h, hpoll h, hload h, htick h, hupdate f h]
  obtain ⟨u, r, hs, hq⟩ := exec_with_other_now huntimed s time
  exact ⟨_, hs, hq⟩

/-- Settles O3: the printed words by evaluation, the rejected ones by `decode_error_iff`. -/
theorem printedAndReservedWordsDecode : Obligations.PrintedAndReservedWordsDecode :=
  ⟨by decide, by decide, by decide, by decide, by decide, by decide, by decide, decode_error_iff⟩

/-- Settles O4: both functions are `scaledByte` with their unit, and the three lines write its value. -/
theorem pseudoInstructionsScaleMilliseconds : Obligations.PseudoInstructionsScaleMilliseconds := by
  refine ⟨fun ms => ⟨rfl, rfl⟩, by decide, fun ms hlo hhi => ?_, fun ms hlo hhi => ?_, fun ms => ⟨?_, ?_, ?_⟩⟩
  · have := scaledByte_nearest (unit := 100) (ms := ms) (by decide) (by omega) (by omega)
    rw [q100]; omega
  · have := scaledByte_nearest (unit := 10) (ms := ms) (by decide) (by omega) (by omega)
    rw [q10]; omega
  · rw [setLine_repdly]; exact writeCommand_of_regNumber (k := 0x81) rfl (by decide) _
  · rw [setLine_repint]; exact writeCommand_of_regNumber (k := 0x82) rfl (by decide) _
  · rw [setLine_lpdly]; exact writeCommand_of_regNumber (k := 0x83) rfl (by decide) _

end Sys2Proof.Machine
end

section
/-! PROOFS of the statements on the common operations (40_common_ops.md): NOP (R110), WR with the clamps and side effects
of its registers (R112, R113), RST (R114), the reserved opcodes (R115), and the coherence of the filters, which a write of
POLICY keeps by its side effects (R113). -/

namespace Sys2Proof.Machine

/-! ## Coherent filters (R113, R121, R123, R124) -/

/-- Under the holder policy only a running timer says something of the candidate. -/
theorem coherent_of_holder {x : Filter} (hpolicy : x.policy = .holder) (h : x.run = true → x.cand ≠ x.out) :
    x.Coherent :=
  ⟨fun _ => h, fun hdelayer => (nomatch hpolicy.symm.trans hdelayer)⟩

/-- Under the delayer policy only a stopped timer says something of the candidate. -/
theorem coherent_of_delayer {x : Filter} (hpolicy : x.policy = .delayer) (h : x.run = false → x.cand = x.out) :
    x.Coherent :=
  ⟨fun hholder => (nomatch hpolicy.symm.trans hholder), fun _ => h⟩

theorem coherent_of_blanker {x : Filter} (hpolicy : x.policy = .blanker) : x.Coherent :=
  ⟨fun hholder => (nomatch hpolicy.symm.trans hholder), fun hdelayer => (nomatch hpolicy.symm.trans hdelayer)⟩

/-- A filter at rest is coherent under every policy, which is why a write of POLICY stops the timer and takes the output
as candidate. -/
theorem coherent_of_rest {x : Filter} (hrun : x.run = false) (hcand : x.cand = x.out) : x.Coherent :=
  ⟨fun _ h => (nomatch hrun.symm.trans h), fun _ _ => hcand⟩

/-- A holder starts its timer on a value that differs from the output, and stops it with a commit. -/
theorem holderStep_coherent {x : Filter} (p : Params) (inp : Word) (now : Time) (hpolicy : x.policy = .holder)
    (hx : x.Coherent) : (holderStep p inp now x).Coherent := by
  rcases holderStep_cases p inp now x with
    ⟨-, e⟩ | ⟨hne, -, -, e⟩ | ⟨-, -, -, e⟩ | ⟨-, -, -, -, e⟩ | ⟨-, -, -, -, e⟩ <;> rw [e]
  case inr.inl => exact coherent_of_holder hpolicy fun _ => hne
  case inr.inr.inr.inl => exact hx
  all_goals exact coherent_of_holder hpolicy nofun

/-- A delayer's timer stops only with a commit, which makes the candidate the output. -/
theorem delayerStep_coherent {x : Filter} (p : Params) (inp : Word) (now : Time) (hpolicy : x.policy = .delayer)
    (hx : x.Coherent) : (delayerStep p inp now x).Coherent := by
  rcases delayerStep_cases p inp now x with ⟨-, -, e⟩ | ⟨-, -, e⟩ | ⟨-, -, e⟩ | ⟨-, -, -, e⟩ <;> rw [e]
  · exact coherent_of_delayer hpolicy nofun
  · exact coherent_of_delayer hpolicy fun _ => rfl
  · exact hx
  · exact coherent_of_delayer hpolicy fun _ => rfl

theorem filterStep_coherent {x : Filter} (p : Params) (inp : Word) (now : Time) (hx : x.Coherent) :
    (filterStep p inp now x).Coherent := by
  obtain ⟨hkept, -⟩ := filterStep_config p inp now x
  cases hpolicy : x.policy with
  | holder => simp only [filterStep, hpolicy]; exact holderStep_coherent p inp now hpolicy hx
  | delayer => simp only [filterStep, hpolicy]; exact delayerStep_coherent p inp now hpolicy hx
  | blanker => exact coherent_of_blanker (hkept.trans hpolicy)

/-- The filter read for an index is one of the file, or, beyond its end, a reset one. -/
theorem filter_mem_or_reset (s : State) (f : Nat) : s.filter f ∈ s.dbf ∨ s.filter f = Filter.reset := by
  by_cases hf : f < s.dbf.length
  · exact .inl (filter_mem s f hf)
  · exact .inr (List.getD_eq_default _ _ (Nat.not_lt.mp hf))

theorem filter_coherent {s : State} (h : s.FiltersCoherent) (f : Nat) : (s.filter f).Coherent := by
  rcases filter_mem_or_reset s f with hmem | hbeyond
  · exact h _ hmem
  · rw [hbeyond]; exact coherent_of_rest rfl rfl

theorem setFilter_coherent {s : State} (h : s.FiltersCoherent) (f : Nat) {x : Filter} (hx : x.Coherent) :
    (s.setFilter f x).FiltersCoherent := by
  intro y hy
  rcases mem_setFilter s f x y hy with rfl | hy
  · exact hx
  · exact h y hy

/-- A reset, a write of POLICY and DBF.INIT leave a filter at rest; a write of WINDOW touches neither the timer nor the
values; DBF.UPD takes the policy's step. -/
theorem DbfUpdate.coherent {s : State} {i : Instr} {l : List Filter} (h : DbfUpdate s i l) (hd : s.FiltersCoherent) :
    ∀ x ∈ l, x.Coherent := by
  cases h
  case keep => exact hd
  case reset => exact resetWith_filtersCoherent s.params
  case policy f c => exact setFilter_coherent hd f (coherent_of_rest rfl rfl)
  case window f v => exact setFilter_coherent hd f (filter_coherent hd f)
  case load f => exact setFilter_coherent hd f.toNat (coherent_of_rest rfl rfl)
  case update f => exact setFilter_coherent hd f.toNat (filterStep_coherent _ _ _ (filter_coherent hd f.toNat))

/-! ## RST and the slot count (R114) -/

/-- 0x84 is the number of NBIND, whatever the parameters are. -/
theorem regOf_nbind (p : Params) : regOf p 0x84#8 = some .nbind := regOf_of_eds (by decide) (by decide)

/-- Of what an operation can do to the binding table, only the reset lowers NBIND. -/
theorem EdsUpdate.nbind_le {s : State} {i : Instr} {d : Eds} (h : EdsUpdate s i d) (hi : i ≠ .rst) (hs : s.Sized)
    (hb : s.BindingOk) : s.eds.nbind.toNat ≤ d.nbind.toNat := by
  rcases h.table with ⟨hrst, -⟩ | ⟨hnbind, -⟩ | ⟨pin, -, hroom, -, rfl⟩
  · exact absurd hrst hi
  · exact Nat.le_of_eq (congrArg _ hnbind.symm)
  · obtain ⟨-, hsucc⟩ := nbind_append_toNat hs hb hroom
    rw [Eds.append_nbind, hsucc]; exact Nat.le_succ _

/-! ## WR of a numbered register (R112, R113) -/

theorem exec_wr_number {s : State} {k : Byte} {r : Reg} (hp : s.params.Legal) (hr : r.Implemented s.params)
    (hk : k.toNat = r.number) : exec (.wr k) s = .next ((writeReg s r s.ports.wdata).answered 0#32 false) := by
  rw [exec_wr, writeNumber_number hp hr hk]

theorem writePolicy_of_some {v : Word} {c : Policy} (h : policyOf v = some c) (s : State) (f : Nat) :
    writePolicy s f v = s.setFilter f ((s.filter f).withPolicy c) := by
  rw [writePolicy, h]

theorem writePolicy_of_none {v : Word} (h : policyOf v = none) (s : State) (f : Nat) : writePolicy s f v = s := by
  rw [writePolicy, h]

/-- A value up to 2 selects the policy whose code it is (R23). -/
theorem policyOf_of_le {v : Word} (h : v.toNat ≤ 2) :
    ∃ c, policyOf v = some c ∧ (c = .holder ↔ v.toNat = 0) ∧ (c = .delayer ↔ v.toNat = 1) ∧
      (c = .blanker ↔ v.toNat = 2) := by
  rcases policyOf_cases v with ⟨hv, e⟩ | ⟨hv, e⟩ | ⟨hv, e⟩ | ⟨hv, -⟩
  · exact ⟨.holder, e, by simp [hv]⟩
  · exact ⟨.delayer, e, by simp [hv]⟩
  · exact ⟨.blanker, e, by simp [hv]⟩
  · omega

theorem policyOf_of_gt {v : Word} (h : 2 < v.toNat) : policyOf v = none := by
  rcases policyOf_cases v with ⟨hv, -⟩ | ⟨hv, -⟩ | ⟨hv, -⟩ | ⟨-, e⟩
  case inr.inr.inr => exact e
  all_goals omega

/-- The mode an encoder starts in, by the low seven bits of the value written to its mode byte. -/
theorem initialMode_setWidth_toNat (v : Word) :
    (initialMode (v.setWidth 8)).toNat = if 2 ≤ v.toNat % 128 then 1 else 0 := by
  have hcount : (v.setWidth 8).toNat % 128 = v.toNat % 128 := by
    rw [BitVec.toNat_setWidth]; exact Nat.mod_mod_of_dvd _ (by decide)
  rw [initialMode, modeCount_toNat, hcount]
  split <;> rfl

/-! ## The obligations -/

/-- Settles O56: filters are written by the DBF operations, by WR and by the resets, each of which keeps them coherent
(`DbfUpdate.coherent`). -/
theorem everyStepKeepsFiltersCoherent : Obligations.EveryStepKeepsFiltersCoherent := fun s t hs hd hstep =>
  (step_invariant_of_units (·.FiltersCoherent) (fun h => h) (fun _ h hupdate _ _ => hupdate.coherent h)
    s t hs hd hstep).2

/-- Settles O14: the state after RST is the reset state but for the record of the command port, its NBIND is read by
number, and every other operation is one of the cases of `EdsUpdate.nbind_le`. -/
theorem rstResetsEveryRegister : Obligations.RstResetsEveryRegister := by
  refine ⟨fun k => decode_append _ k, fun s => ?state, fun s t h => ?count, fun i s t hi hs hb h => ?others⟩
  case state => rw [exec_rst, resetBlock_eq]; rfl
  case count =>
    rw [exec_rst, respond_next_iff] at h
    subst h
    rw [exec_rd, readNumber, regOf_nbind]; rfl
  case others =>
    obtain ⟨dbf, eds, qed, rs, rfl, -, he, -⟩ := exec_units h
    exact he.nbind_le hi hs hb

/-- Settles O16: each number reaches its register (`exec_wr_number`), whose row of R113 is `writeReg`; left are the code of
the policy, the values of the clamps, and the three parts of a write of NMODES. -/
theorem wrWritesTheNumberedRegister : Obligations.WrWritesTheNumberedRegister := by
  intro s k hp
  have ⟨_, _, _, ⟨_, hww⟩, _⟩ := hp
  have hwindow := clampTo_toNat s.params.ww 16 hww s.ports.wdata
  have hbyte := clampTo_toNat 8 8 (Nat.le_refl 8) s.ports.wdata
  refine ⟨fun f hf hk => ⟨fun hv => ?legal, fun hv => ?ignored⟩,
    fun f hf hk => ⟨_, _, hwindow, rfl, exec_wr_number (r := .window f) hp hf hk⟩,
    fun hk => ⟨_, hwindow, exec_wr_number (r := .debounce) hp trivial hk⟩,
    fun hk => ⟨_, hbyte, exec_wr_number (r := .repdly) hp trivial hk⟩,
    fun hk => ⟨_, hbyte, exec_wr_number (r := .repint) hp trivial hk⟩,
    fun hk => ⟨_, hbyte, exec_wr_number (r := .lpdly) hp trivial hk⟩,
    fun hk => ⟨_, rfl, exec_wr_number (r := .inv) hp trivial hk⟩,
    fun hk => ⟨_, rfl, exec_wr_number (r := .half) hp trivial hk⟩,
    fun hk => ⟨_, rfl, exec_wr_number (r := .modewrap) hp trivial hk⟩,
    fun e he hk => ⟨_, _, _, _, BitVec.toNat_setWidth _ _, initialMode_setWidth_toNat _,
      clearBit_getLsbD s.qed.modechg e, rfl, exec_wr_number (r := .nmodes e) hp he hk⟩⟩
  case legal =>
    obtain ⟨c, hc, hholder, hdelayer, hblanker⟩ := policyOf_of_le hv
    refine ⟨c, _, hholder, hdelayer, hblanker, rfl, ?_⟩
    rw [exec_wr_number (r := .policy f) hp hf hk, writeReg, writePolicy_of_some hc]; rfl
  case ignored =>
    rw [exec_wr_number (r := .policy f) hp hf hk, writeReg, writePolicy_of_none (policyOf_of_gt hv)]

/-- Settles O5: a reserved opcode is rejected by the decoder (`decode_error_iff`), and the step answers it from the state
that has sampled the port. -/
theorem reservedOpcodesChangeNothing : Obligations.ReservedOpcodesChangeNothing := by
  intro s w ports rest hpending hreserved
  have herror := (decode_error_iff w).mp hreserved
  rw [step_of_decode_error hpending herror, respond_eq]; rfl

/-- Settles O13: the meaning of NOP is the zero response and nothing else. -/
theorem nopChangesNoRegister : Obligations.NopChangesNoRegister :=
  ⟨fun k => decode_append _ k, fun s => respond_eq s Response.zero⟩

end Sys2Proof.Machine
end

section
/-! PROOFS of the statements on the debounce filter (41_debounce_filter.md): DBF.INIT and DBF.STAT (R121, R126, R131), the
step of each policy case by case (R123 to R125), the zero window (R128), and two statements over runs of updates: holder
and delayer give the same outputs (R127), and a constant input moves the output at most once (R130). -/

namespace Sys2Proof.Machine

/-! ## The operations (R121, R122, R126, R131) -/

theorem exec_dbfInit {s : State} {f : Byte} (h : f.toNat < s.params.nf) :
    exec (.dbfInit f) s =
      .next ((s.setFilter f.toNat ((s.filter f.toNat).load (scalarOf s))).answered (scalarOf s) false) := if_pos h

theorem exec_dbfUpd {s : State} {f : Byte} (h : f.toNat < s.params.nf) :
    exec (.dbfUpd f) s =
      .next ((s.setFilter f.toNat (filterStep s.params (scalarOf s) (nowOf s) (s.filter f.toNat))).answered
        (filterStep s.params (scalarOf s) (nowOf s) (s.filter f.toNat)).out false) := if_pos h

theorem exec_dbfStat {s : State} {f : Byte} (h : f.toNat < s.params.nf) :
    exec (.dbfStat f) s = .next (s.answered (s.filter f.toNat).out false) := if_pos h

/-- An `f` that selects no filter makes each of the three operations a no-op that gives 0. -/
theorem exec_dbf_unselected {s : State} {f : Byte} (h : s.params.nf ≤ f.toNat) :
    exec (.dbfStat f) s = .next (s.answered 0#32 false) ∧
    exec (.dbfInit f) s = .next (s.answered 0#32 false) ∧
    exec (.dbfUpd f) s = .next (s.answered 0#32 false) :=
  ⟨if_neg (Nat.not_lt.mpr h), if_neg (Nat.not_lt.mpr h), if_neg (Nat.not_lt.mpr h)⟩

/-! ## The steps, one equation per branch (R122 to R125) -/

theorem filterStep_of_holder {x : Filter} (h : x.policy = .holder) (p : Params) (inp : Word) (now : Time) :
    filterStep p inp now x = holderStep p inp now x := by
  rw [filterStep, h]

theorem filterStep_of_delayer {x : Filter} (h : x.policy = .delayer) (p : Params) (inp : Word) (now : Time) :
    filterStep p inp now x = delayerStep p inp now x := by
  rw [filterStep, h]

theorem filterStep_of_blanker {x : Filter} (h : x.policy = .blanker) (p : Params) (inp : Word) (now : Time) :
    filterStep p inp now x = blankerStep p inp now x := by
  rw [filterStep, h]

section Branches
variable {p : Params} {inp : Word} {now : Time} {x : Filter}

theorem commitExpired_of_lt (h : elapsed p now x.t0 < x.window.toNat) : commitExpired p now x = x :=
  if_neg (by simpa [expired_iff] using h)

theorem commitExpired_of_le (h : x.window.toNat ≤ elapsed p now x.t0) :
    commitExpired p now x = { x with out := x.cand, run := false } :=
  if_pos ((expired_iff p now x.t0 x.window.toNat).mpr h)

/-- The filter with its timer started at `now` for the candidate `inp`, as holder and delayer start it. -/
def Filter.timing (x : Filter) (inp : Word) (now : Time) : Filter := { x with cand := inp, t0 := now, run := true }

/-- A timer that has just started waits, unless the window is zero. -/
theorem commitExpired_timing_of_ne (h : x.window ≠ 0#16) : commitExpired p now (x.timing inp now) = x.timing inp now := by
  refine commitExpired_of_lt ?_
  rw [Filter.timing, elapsed_self]
  exact Nat.pos_of_ne_zero fun hzero => h (BitVec.eq_of_toNat_eq hzero)

theorem commitExpired_timing_of_eq (h : x.window = 0#16) :
    commitExpired p now (x.timing inp now) = { x with out := inp, cand := inp, t0 := now, run := false } :=
  commitExpired_of_le (h ▸ Nat.zero_le _)

theorem holderStep_of_eq (h : inp = x.out) : holderStep p inp now x = { x with run := false } := if_pos h

theorem holderStep_of_start (hne : inp ≠ x.out) (hstart : x.run = false ∨ inp ≠ x.cand) :
    holderStep p inp now x = commitExpired p now (x.timing inp now) := by
  rw [holderStep, if_neg hne, holderTimer, if_pos hstart, Filter.timing]

theorem holderStep_of_timed (hne : inp ≠ x.out) (hrun : x.run = true) (hcand : inp = x.cand) :
    holderStep p inp now x = commitExpired p now x := by
  rw [holderStep, if_neg hne, holderTimer, if_neg (by simp [hrun, hcand])]

theorem delayerStep_of_change (hne : inp ≠ x.cand) :
    delayerStep p inp now x = commitExpired p now (x.timing inp now) := by
  rw [delayerStep, delayerTimer, if_pos hne, Filter.timing]; rfl

theorem delayerStep_of_stopped (hcand : inp = x.cand) (hrun : x.run = false) : delayerStep p inp now x = x := by
  simp [delayerStep, delayerTimer, hcand, hrun]

theorem delayerStep_of_timed (hcand : inp = x.cand) (hrun : x.run = true) :
    delayerStep p inp now x = commitExpired p now x := by
  simp [delayerStep, delayerTimer, hcand, hrun]

/-- A blanker looks at the input exactly when no interval is running. -/
theorem hidden_iff_not_open :
    (x.run = true ∧ elapsed p now x.t0 < x.window.toNat) ↔ ¬(x.run = false ∨ x.window.toNat ≤ elapsed p now x.t0) := by
  simp

end Branches

/-! ## What a step makes of the output (R127, R128, R130) -/

/-- Under every policy a step leaves the output or sets it to the input. -/
theorem filterStep_out (p : Params) (inp : Word) (now : Time) (x : Filter) :
    (filterStep p inp now x).out = x.out ∨ (filterStep p inp now x).out = inp := by
  unfold filterStep
  split
  · rcases holderStep_cases p inp now x with
      ⟨-, e⟩ | ⟨-, -, -, e⟩ | ⟨-, -, -, e⟩ | ⟨-, -, -, -, e⟩ | ⟨-, -, hcand, -, e⟩ <;> rw [e]
    exacts [.inl rfl, .inl rfl, .inr rfl, .inl rfl, .inr hcand.symm]
  · rcases delayerStep_cases p inp now x with ⟨-, -, e⟩ | ⟨-, -, e⟩ | ⟨-, -, e⟩ | ⟨hcand, -, -, e⟩ <;> rw [e]
    exacts [.inl rfl, .inr rfl, .inl rfl, .inr hcand.symm]
  · rcases blankerStep_cases p inp now x with ⟨-, -, e⟩ | ⟨-, -, e⟩ | ⟨-, -, e⟩ <;> rw [e]
    exacts [.inl rfl, .inl rfl, .inr rfl]

/-- With a zero window no branch that waits is open. A delayer's stopped timer is where coherence is needed: its last
sample is then the output. -/
theorem filterStep_out_of_window_zero {x : Filter} (p : Params) (inp : Word) (now : Time) (hx : x.Coherent)
    (hw : x.window = 0#16) : (filterStep p inp now x).out = inp := by
  have hzero : x.window.toNat = 0 := by rw [hw]; rfl
  cases hpolicy : x.policy with
  | holder =>
    rw [filterStep_of_holder hpolicy]
    rcases holderStep_cases p inp now x with
      ⟨heq, e⟩ | ⟨-, -, hpos, -⟩ | ⟨-, -, -, e⟩ | ⟨-, -, -, hlt, -⟩ | ⟨-, -, hcand, -, e⟩
    · rw [e]; exact heq.symm
    · omega
    · rw [e]
    · omega
    · rw [e]; exact hcand.symm
  | delayer =>
    rw [filterStep_of_delayer hpolicy]
    rcases delayerStep_cases p inp now x with ⟨-, hpos, -⟩ | ⟨-, -, e⟩ | ⟨hcand, hrun | hlt, e⟩ | ⟨hcand, -, -, e⟩
    · omega
    · rw [e]
    · obtain ⟨-, hrest⟩ := hx
      rw [e, hcand, hrest hpolicy hrun]
    · omega
    · rw [e]; exact hcand.symm
  | blanker =>
    rw [filterStep_of_blanker hpolicy]
    rcases blankerStep_cases p inp now x with ⟨-, hlt, -⟩ | ⟨-, heq, e⟩ | ⟨-, -, e⟩
    · omega
    · rw [e]; exact heq.symm
    · rw [e]

/-- A delayer that samples its output's value keeps its output, and has it as its candidate, whatever its timer does. -/
theorem delayerStep_of_eq_out {p : Params} {inp : Word} {now : Time} {x : Filter} (h : inp = x.out) :
    (delayerStep p inp now x).out = inp ∧ (delayerStep p inp now x).cand = inp := by
  rcases delayerStep_cases p inp now x with ⟨-, -, e⟩ | ⟨-, -, e⟩ | ⟨hcand, -, e⟩ | ⟨hcand, -, -, e⟩ <;> rw [e]
  exacts [⟨h.symm, rfl⟩, ⟨rfl, rfl⟩, ⟨h.symm, hcand.symm⟩, ⟨hcand.symm, hcand.symm⟩]

/-! ## A run of updates of one filter -/

/-- The outputs a filter gives to updates with the sampled ports `inputs`. -/
def filterOutputs (p : Params) (x : Filter) : List Ports → List Word
  | [] => []
  | q :: rest =>
    let y := filterStep p (keepLow p.vw q.wdata) (keepLow p.tw q.now) x
    y.out :: filterOutputs p y rest

theorem filterOutputs_cons (p : Params) (x : Filter) (q : Ports) (rest : List Ports) :
    filterOutputs p x (q :: rest) =
      (filterStep p (keepLow p.vw q.wdata) (keepLow p.tw q.now) x).out ::
        filterOutputs p (filterStep p (keepLow p.vw q.wdata) (keepLow p.tw q.now) x) rest := rfl

/-- A run of DBF.UPD commands for one filter completes, and its responses are the outputs of that filter. -/
theorem run_dbfUpd (f : Byte) (inputs : List Ports) : ∀ {s : State} {x : Filter}, s.dbf.length = s.params.nf →
    f.toNat < s.params.nf → s.pending = inputs.map (fun q => .command (0x11#8 ++ f) q) → s.filter f.toNat = x →
    ∃ t, Sys2Proof.core.run inputs.length s = .next t ∧
      t.responses = s.responses ++ (filterOutputs s.params x inputs).map Response.data := by
  induction inputs with
  | nil => exact fun {s _} _ _ _ _ => ⟨s, run_zero s, (List.append_nil _).symm⟩
  | cons q rest ih =>
    intro s x hlen hf hp hx
    subst hx
    have hstep := (step_of_decode_ok hp (decode_append _ f)).trans (exec_dbfUpd hf)
    obtain ⟨t, hrun, hresponses⟩ := ih (s := State.answered (State.setFilter (s.sample _ q) _ _) _ false)
      (List.length_set.trans hlen) hf rfl (filter_setFilter_self (s.sample _ q) f.toNat _ (hlen ▸ hf))
    refine ⟨t, (run_succ _ s _ hstep).trans hrun, hresponses.trans ?_⟩
    rw [filterOutputs_cons, List.map_cons, List.append_cons]; rfl

/-- While the input stays at `v` the output is the old one and then, once it has moved, `v`. -/
theorem filterOutputs_of_constant {p : Params} {v : Word} (inputs : List Ports) : ∀ x : Filter,
    (∀ q ∈ inputs, keepLow p.vw q.wdata = v) →
    ∃ m n, filterOutputs p x inputs = List.replicate m x.out ++ List.replicate n v := by
  induction inputs with
  | nil => exact fun _ _ => ⟨0, 0, rfl⟩
  | cons q rest ih =>
    intro x h
    rw [filterOutputs_cons, h q List.mem_cons_self]
    obtain ⟨m, n, e⟩ := ih (filterStep p v (keepLow p.tw q.now) x) fun r hr => h r (List.mem_cons_of_mem q hr)
    rw [e]
    rcases filterStep_out p v (keepLow p.tw q.now) x with hout | hout <;> rw [hout]
    · exact ⟨m + 1, n, rfl⟩
    · refine ⟨0, m + n + 1, ?_⟩
      rw [List.replicate_append_replicate]; rfl

/-! ## Holder and delayer side by side (R127) -/

/-- A holder and a delayer that have given the same outputs: both time the same candidate from the same moment, or the
holder's timer is stopped and the delayer's last sample is the output. In the second case the delayer's timer may still
run, since it times a return to the output's value where a holder stops. -/
inductive InStep (x : Filter) : Filter → Prop
  | timing (hholder : x.policy = .holder) (hrun : x.run = true) : InStep x { x with policy := .delayer }
  | resting {y : Filter} (hholder : x.policy = .holder) (hdelayer : y.policy = .delayer) (hwindow : y.window = x.window)
      (hout : y.out = x.out) (hrun : x.run = false) (hcand : y.cand = y.out) : InStep x y

theorem InStep.fields {x y : Filter} (h : InStep x y) :
    x.policy = .holder ∧ y.policy = .delayer ∧ y.window = x.window ∧ y.out = x.out := by
  cases h with
  | timing hholder => exact ⟨hholder, rfl, rfl, rfl⟩
  | resting hholder hdelayer hwindow hout => exact ⟨hholder, hdelayer, hwindow, hout⟩

/-- Once both time one candidate from one moment, nothing but the policy tells them apart. -/
theorem InStep.timing_eq {x y : Filter} (h : InStep x y) (inp : Word) (now : Time) :
    y.timing inp now = { x.timing inp now with policy := .delayer } := by
  obtain ⟨-, hdelayer, hwindow, hout⟩ := h.fields
  simp only [Filter.timing, hdelayer, hwindow, hout]

/-- Two timers of one candidate commit at the same moment. -/
theorem inStep_commitExpired {x : Filter} (p : Params) (now : Time) (hpolicy : x.policy = .holder) (hrun : x.run = true) :
    InStep (commitExpired p now x) (commitExpired p now { x with policy := .delayer }) := by
  rcases Nat.lt_or_ge (elapsed p now x.t0) x.window.toNat with h | h
  · rw [commitExpired_of_lt h, commitExpired_of_lt (x := { x with policy := .delayer }) h]
    exact .timing hpolicy hrun
  · rw [commitExpired_of_le h, commitExpired_of_le (x := { x with policy := .delayer }) h]
    exact .resting hpolicy rfl rfl rfl rfl rfl

/-- A value that is new to both, and differs from the output, starts both timers at the same moment. -/
theorem InStep.start {x y : Filter} (h : InStep x y) (p : Params) {inp : Word} (now : Time) (hne : inp ≠ x.out)
    (hx : x.run = false ∨ inp ≠ x.cand) (hy : inp ≠ y.cand) :
    InStep (holderStep p inp now x) (delayerStep p inp now y) := by
  obtain ⟨hholder, -⟩ := h.fields
  rw [holderStep_of_start hne hx, delayerStep_of_change hy, h.timing_eq]
  exact inStep_commitExpired p now hholder rfl

/-- A return to the output's value brings both to rest. -/
theorem InStep.stop {x y : Filter} (h : InStep x y) (p : Params) {inp : Word} (now : Time) (heq : inp = x.out) :
    InStep (holderStep p inp now x) (delayerStep p inp now y) := by
  obtain ⟨hholder, hdelayer, hwindow, hout⟩ := h.fields
  obtain ⟨houtAfter, hcandAfter⟩ := delayerStep_of_eq_out (p := p) (now := now) (heq.trans hout.symm)
  have hconfig := filterStep_config p inp now y
  rw [filterStep_of_delayer hdelayer] at hconfig
  obtain ⟨hpolicyKept, hwindowKept⟩ := hconfig
  rw [holderStep_of_eq heq]
  exact .resting hholder (hpolicyKept.trans hdelayer) (hwindowKept.trans hwindow) (houtAfter.trans heq) rfl
    (hcandAfter.trans houtAfter.symm)

theorem InStep.step {x y : Filter} (h : InStep x y) (p : Params) (inp : Word) (now : Time) :
    InStep (filterStep p inp now x) (filterStep p inp now y) := by
  obtain ⟨hholder, hdelayer, -⟩ := h.fields
  rw [filterStep_of_holder hholder, filterStep_of_delayer hdelayer]
  by_cases heq : inp = x.out
  · exact h.stop p now heq
  · have hstart := h.start p now heq
    cases h with
    | timing _ hrun =>
      by_cases hcand : inp = x.cand
      · rw [holderStep_of_timed heq hrun hcand, delayerStep_of_timed (x := { x with policy := .delayer }) hcand hrun]
        exact inStep_commitExpired p now hholder hrun
      · exact hstart (.inr hcand) hcand
    | resting _ _ _ hout hrun hcand =>
      exact hstart (.inl hrun) fun hsample => heq (hsample.trans (hcand.trans hout))

theorem InStep.outputs_eq {p : Params} (inputs : List Ports) : ∀ {x y : Filter}, InStep x y →
    filterOutputs p x inputs = filterOutputs p y inputs := by
  induction inputs with
  | nil => exact fun _ => rfl
  | cons q rest ih =>
    intro x y h
    have hnext := h.step p (keepLow p.vw q.wdata) (keepLow p.tw q.now)
    obtain ⟨-, -, -, hout⟩ := hnext.fields
    rw [filterOutputs_cons, filterOutputs_cons, ih hnext, hout]

/-! ## The obligations -/

/-- Settles O24: the runs answer with the outputs of their filters (`run_dbfUpd`), and a holder and a delayer at rest are
in step. -/
theorem holderAndDelayerGiveTheSameOutputs : Obligations.HolderAndDelayerGiveTheSameOutputs := by
  intro s f inputs ⟨_, hlen, _⟩ hf hrun hcand
  have hruns (x : Filter) := run_dbfUpd f inputs
    (s := { s with pending := inputs.map _, dbf := s.dbf.set f.toNat x })
    (List.length_set.trans hlen) hf rfl (filter_setFilter_self s f.toNat x (hlen ▸ hf))
  obtain ⟨a, hruna, ha⟩ := hruns { s.filter f.toNat with policy := .holder }
  obtain ⟨b, hrunb, hb⟩ := hruns { s.filter f.toNat with policy := .delayer }
  have hstart : InStep { s.filter f.toNat with policy := .holder } { s.filter f.toNat with policy := .delayer } :=
    .resting rfl rfl rfl rfl hrun hcand
  refine ⟨a, b, hruna, hrunb, ?_⟩
  rw [ha, hb, hstart.outputs_eq]

/-- Settles O25: every output but the old one is `v` (`filterOutputs_of_constant`). -/
theorem constantInputMovesTheOutputAtMostOnce : Obligations.ConstantInputMovesTheOutputAtMostOnce := by
  intro s f inputs v ⟨_, hlen, _⟩ hf hconstant
  obtain ⟨m, n, houtputs⟩ := filterOutputs_of_constant inputs (s.filter f.toNat) hconstant
  obtain ⟨a, hrun, hresponses⟩ :=
    run_dbfUpd f inputs (s := { s with pending := inputs.map _ }) (x := s.filter f.toNat) hlen hf rfl rfl
  refine ⟨a, m, n, hrun, ?_⟩
  dsimp only at hresponses
  rw [hresponses, houtputs, List.map_append, List.map_replicate, List.map_replicate, ← List.append_assoc]; rfl

/-- Settles O23, since the response holds the output after the step. -/
theorem zeroWindowPassesTheInputThrough : Obligations.ZeroWindowPassesTheInputThrough := by
  intro s f hf hcoherent hwindow
  refine ⟨_, exec_dbfUpd hf, ?_⟩
  rw [filterStep_out_of_window_zero s.params (scalarOf s) (nowOf s) hcoherent hwindow]; rfl

/-- Settles O20: an update of a holder is `holderStep`, which stops the timer, starts it, or looks at it; the last two end
with the commit test. -/
theorem holderStepByCases : Obligations.HolderStepByCases := by
  intro s f hf hpolicy
  have hupd := exec_dbfUpd hf
  rw [filterStep_of_holder hpolicy] at hupd
  refine ⟨_, hupd, holderStep_of_eq, fun hne hstart => ⟨fun hw => ?starts, fun hw => ?passes⟩,
    fun hne hrun hcand => ⟨fun hlt => ?waits, fun hle => ?commits⟩⟩
  case starts => rw [holderStep_of_start hne hstart, commitExpired_timing_of_ne hw, Filter.timing]
  case passes => rw [holderStep_of_start hne hstart, commitExpired_timing_of_eq hw]
  case waits => rw [holderStep_of_timed hne hrun hcand, commitExpired_of_lt hlt]
  case commits => rw [holderStep_of_timed hne hrun hcand, commitExpired_of_le hle]

/-- Settles O21: an update of a delayer is `delayerStep`, which restarts the timer, or looks at it if it runs; both end
with the commit test. -/
theorem delayerStepByCases : Obligations.DelayerStepByCases := by
  intro s f hf hpolicy
  have hupd := exec_dbfUpd hf
  rw [filterStep_of_delayer hpolicy] at hupd
  refine ⟨_, hupd, fun hne => ⟨fun hw => ?starts, fun hw => ?passes⟩,
    fun hcand => ⟨delayerStep_of_stopped hcand, fun hrun => ⟨fun hlt => ?waits, fun hle => ?commits⟩⟩⟩
  case starts => rw [delayerStep_of_change hne, commitExpired_timing_of_ne hw, Filter.timing]
  case passes => rw [delayerStep_of_change hne, commitExpired_timing_of_eq hw]
  case waits => rw [delayerStep_of_timed hcand hrun, commitExpired_of_lt hlt]
  case commits => rw [delayerStep_of_timed hcand hrun, commitExpired_of_le hle]

/-- Settles O22: the three branches of `blankerStep_cases`, of which the first is closed exactly when the other two are
open. -/
theorem blankerStepByCases : Obligations.BlankerStepByCases := by
  intro s f hf hpolicy
  have hupd := exec_dbfUpd hf
  rw [filterStep_of_blanker hpolicy] at hupd
  rcases blankerStep_cases s.params (scalarOf s) (nowOf s) (s.filter f.toNat) with
    ⟨hrun, hlt, e⟩ | ⟨hopen, heq, e⟩ | ⟨hopen, hne, e⟩
  all_goals
    rw [e] at hupd
    refine ⟨_, hupd, ?_⟩
  · exact ⟨fun _ _ => rfl, fun hopen => absurd hopen (hidden_iff_not_open.mp ⟨hrun, hlt⟩)⟩
  · exact ⟨fun hrun hlt => absurd hopen (hidden_iff_not_open.mp ⟨hrun, hlt⟩), fun _ =>
      ⟨fun _ => rfl, fun hne => absurd heq hne⟩⟩
  · exact ⟨fun hrun hlt => absurd hopen (hidden_iff_not_open.mp ⟨hrun, hlt⟩), fun _ =>
      ⟨fun heq => absurd heq hne, fun _ => rfl⟩⟩

/-- Settles O18: `Filter.load` is the register update that the statement writes out. -/
theorem dbfInitLoadsTheFilter : Obligations.DbfInitLoadsTheFilter := by
  refine ⟨fun k => decode_append _ k, fun s f => ⟨fun hf => ⟨_, rfl, exec_dbfInit hf⟩, fun hf => ?_⟩⟩
  obtain ⟨-, hinit, -⟩ := exec_dbf_unselected hf
  exact hinit

/-- Settles O19: each of the three operations tests `f` before anything else. -/
theorem dbfStatAndUnselectedInstances : Obligations.DbfStatAndUnselectedInstances :=
  ⟨fun k => decode_append _ k, fun _ _ => ⟨exec_dbfStat, exec_dbf_unselected⟩⟩

end Sys2Proof.Machine
end

section
/-! PROOFS of the statements on the edge detector and status distributor (42_edge_status.md): EDS.INIT (R143), EDS.POLL with
its debounce timer (R145, R146), its commit (R147, R148) and its two other timers (R149 to R152), the status codes (R153,
R154, R158), EDS.BIND (R156) and EDS.NEXT (R157). A poll either commits the raw vector or commits nothing; what it leaves
in either case is said once (`PollCommits`, `PollCommitsNothing`). -/

namespace Sys2Proof.Machine

/-! ## The operations (R143, R144, R156, R157) -/

/-- The working record of an `EDS.POLL` in state `s`. -/
def State.poll (s : State) : Poll := pollSteps s.params (rawBanksOf s) (nowOf s) s.eds

theorem exec_edsPoll (s : State) :
    exec .edsPoll s =
      .next (({ s with eds := s.poll.eds } : State).answered 0#32 false (.bank (bankEventOf .check s.poll))) := rfl

/-- The state after a poll, and the record it gave, by the poll's working record. -/
theorem poll_of_exec_edsPoll {s t : State} {ev : BankEvent} (h : exec .edsPoll s = .next t)
    (hr : t.responses = s.responses ++ [⟨0#32, false, .bank ev⟩]) :
    t.eds = s.poll.eds ∧ ev = bankEventOf .check s.poll := by
  rw [exec_edsPoll, Host.Outcome.next.injEq] at h
  subst h
  have hev := List.append_cancel_left hr
  simp only [List.cons.injEq, Response.mk.injEq, EventRecord.bank.injEq, true_and, and_true] at hev
  exact ⟨rfl, hev.symm⟩

/-- The working record of an `EDS.INIT` in state `s`. -/
def State.initPoll (s : State) : Poll := startPoll s.params (s.eds.load (rawBanksOf s) (nowOf s))

theorem exec_edsInit (s : State) :
    exec .edsInit s =
      .next (({ s with eds := s.eds.load (rawBanksOf s) (nowOf s) } : State).answered 0#32 false
        (.bank (bankEventOf .init s.initPoll))) := rfl

theorem exec_edsBind_full {s : State} (h : s.eds.nbind.toNat = s.params.nslot) (pin : Byte) :
    exec (.edsBind pin) s = .next (s.answered sentinel false) := if_pos h

theorem exec_edsBind_badPin {s : State} {pin : Byte} (hbyp : bypassOf s = false) (hpin : s.params.npin ≤ pin.toNat) :
    exec (.edsBind pin) s = .next (s.answered sentinel false) := by
  by_cases hfull : s.eds.nbind.toNat = s.params.nslot
  · exact exec_edsBind_full hfull pin
  · exact (if_neg hfull).trans (if_pos ⟨hbyp, hpin⟩)

theorem exec_edsBind_append {s : State} {pin : Byte} (hroom : s.eds.nbind.toNat ≠ s.params.nslot)
    (hpin : ¬(bypassOf s = false ∧ s.params.npin ≤ pin.toNat)) :
    exec (.edsBind pin) s =
      .next (({ s with eds := s.eds.append ⟨bypassOf s, pin⟩ } : State).answered (s.eds.nbind.setWidth 32) false) :=
  (if_neg hroom).trans (if_neg hpin)

theorem exec_edsNext_empty {s : State} (h : s.eds.nbind = 0#8) :
    exec .edsNext s = .next (s.answered sentinel false) := if_pos h

theorem exec_edsNext_bound {s : State} (h : s.eds.nbind ≠ 0#8) :
    exec .edsNext s =
      .next (({ s with eds := { s.eds with cursor := s.eds.nextCursor } } : State).answered s.eds.descriptor false) :=
  if_neg h

/-- The bits of the descriptor, from the cursor up (R157). -/
theorem descriptor_getLsbD (d : Eds) (i : Nat) :
    d.descriptor.getLsbD i =
      if i < 8 then d.cursor.getLsbD i
      else if i - 8 < 8 then (d.slot d.cursor.toNat).pin.getLsbD (i - 8)
      else decide (i = 16) && (d.slot d.cursor.toNat).byp := by
  simp only [Eds.descriptor, BitVec.getLsbD_append, BitVec.getLsbD_ofBool, BitVec.getLsbD_zero]
  split
  · rfl
  · split
    · rfl
    · by_cases hi : i = 16
      · simp [hi]
      · have hpos : i - 8 - 8 ≠ 0 := by omega
        simp [hi, hpos]

/-- The descriptor field by field (R157). -/
theorem descriptor_fields (d : Eds) :
    d.descriptor.extractLsb' 17 15 = 0#15 ∧ d.descriptor.getLsbD 16 = (d.slot d.cursor.toNat).byp ∧
      d.descriptor.extractLsb' 8 8 = (d.slot d.cursor.toNat).pin ∧ d.descriptor.extractLsb' 0 8 = d.cursor := by
  refine ⟨?reserved, descriptor_getLsbD d 16, ?pin, ?cursor⟩
  all_goals
    refine BitVec.eq_of_getLsbD_eq fun i hi => ?_
    rw [BitVec.getLsbD_extractLsb', descriptor_getLsbD, decide_eq_true hi, Bool.true_and]
  case reserved =>
    have hpos : 17 + i ≠ 16 := by omega
    rw [if_neg (by omega), if_neg (by omega), decide_eq_false hpos, Bool.false_and, BitVec.getLsbD_zero]
  case pin => rw [if_neg (by omega), if_pos (by omega), Nat.add_sub_cancel_left]
  case cursor => rw [if_pos (by omega), Nat.zero_add]

/-! ## The bits of a bank list -/

/-- Logical index `8b + p` is bit `p` of bank `b` (R74). -/
theorem lineBit_bank (l : List Byte) {b p : Nat} (hp : p < 8) : lineBit l (8 * b + p) = (l.getD b 0#8).getLsbD p := by
  have hbank : (8 * b + p) / 8 = b := by omega
  have hpos : (8 * b + p) % 8 = p := by omega
  rw [lineBit, hbank, hpos]

/-- A line of a bank-wise operation on two vectors that hold the line. -/
theorem lineBit_zipWith (g : Byte → Byte → Byte) {l r : List Byte} {nb i : Nat} (hl : l.length = nb)
    (hr : r.length = nb) (hi : i < 8 * nb) :
    lineBit (List.zipWith g l r) i = (g (l.getD (i / 8) 0#8) (r.getD (i / 8) 0#8)).getLsbD (i % 8) := by
  rw [lineBit, zipWith_getD g hl hr (by omega)]

/-- A set line of a bank-wise operation, whatever the lengths: beyond the shorter vector no line is set. -/
theorem lineBit_of_zipWith {g : Byte → Byte → Byte} {l r : List Byte} {i : Nat}
    (h : lineBit (List.zipWith g l r) i = true) :
    (g (l.getD (i / 8) 0#8) (r.getD (i / 8) 0#8)).getLsbD (i % 8) = true := by
  simp only [lineBit, List.getD, List.getElem?_zipWith] at h ⊢
  split at h
  · next hl hr => simpa [hl, hr] using h
  · simp at h

theorem lineBit_of_map {g : Byte → Byte} {l : List Byte} {i : Nat} (h : lineBit (l.map g) i = true) :
    (g (l.getD (i / 8) 0#8)).getLsbD (i % 8) = true := by
  simp only [lineBit, List.getD, List.getElem?_map] at h ⊢
  cases hl : l[i / 8]? with
  | none => simp [hl] at h
  | some x => simpa [hl] using h

theorem upEdges_getLsbD (new old : Byte) (k : Nat) :
    (upEdges new old).getLsbD k = (new.getLsbD k && !old.getLsbD k) := by
  simp only [upEdges, BitVec.getLsbD_and, BitVec.getLsbD_xor]
  cases new.getLsbD k <;> cases old.getLsbD k <;> rfl

theorem downEdges_getLsbD (new old : Byte) {k : Nat} (hk : k < 8) :
    (downEdges new old).getLsbD k = (!new.getLsbD k && old.getLsbD k) := by
  simp only [downEdges, BitVec.getLsbD_and, BitVec.getLsbD_xor, BitVec.getLsbD_not, hk]
  cases new.getLsbD k <;> cases old.getLsbD k <;> rfl

theorem activeLines_getLsbD (cur : Byte) {k : Nat} (hk : k < 8) :
    (activeLines cur).getLsbD k = !cur.getLsbD k := by
  simp only [activeLines, BitVec.getLsbD_not, hk, decide_true, Bool.true_and]

theorem longLines_getLsbD (cur lpdone : Byte) {k : Nat} (hk : k < 8) :
    (longLines cur lpdone).getLsbD k = (!cur.getLsbD k && !lpdone.getLsbD k) := by
  simp only [longLines, BitVec.getLsbD_and, BitVec.getLsbD_not, hk, decide_true, Bool.true_and]

theorem clearReleased_getLsbD (lpdone up : Byte) {k : Nat} (hk : k < 8) :
    (clearReleased lpdone up).getLsbD k = (lpdone.getLsbD k && !up.getLsbD k) := by
  simp only [clearReleased, BitVec.getLsbD_and, BitVec.getLsbD_not, hk, decide_true, Bool.true_and]

/-! ## The two kinds of poll (R145 to R152) -/

/-- What a poll leaves that commits `raw`: the edges, the mask without the released lines, the timers anchored anew, and
no timer fired. -/
structure PollCommits (p : Params) (raw : List Byte) (now : Time) (d : Eds) (w : Poll) : Prop where
  differs : raw ≠ d.cur
  cur : w.eds.cur = raw
  up : w.up = List.zipWith upEdges raw d.cur
  dn : w.dn = List.zipWith downEdges raw d.cur
  rpt : w.rpt = List.replicate p.nb 0#8
  lng : w.lng = List.replicate p.nb 0#8
  lpdone : w.eds.lpdone = List.zipWith clearReleased d.lpdone (List.zipWith upEdges raw d.cur)
  timers : w.eds.debrun = false ∧ w.eds.anchor = now ∧ w.eds.repph = false ∧ w.eds.rept0 = d.rept0 ∧
    w.eds.lparm = true

/-- What a poll leaves that commits nothing: no edges, and what the repeat timer and the long-press timer do. -/
structure PollCommitsNothing (p : Params) (now : Time) (d : Eds) (w : Poll) : Prop where
  cur : w.eds.cur = d.cur
  up : w.up = List.replicate p.nb 0#8
  dn : w.dn = List.replicate p.nb 0#8
  anchor : w.eds.anchor = d.anchor
  repeated : repeatFires p now d = true → w.rpt = d.cur.map activeLines ∧ w.eds.repph = true ∧ w.eds.rept0 = now
  unrepeated : repeatFires p now d = false →
    w.rpt = List.replicate p.nb 0#8 ∧ w.eds.repph = d.repph ∧ w.eds.rept0 = d.rept0
  longPressed : longFires p now d = true →
    w.lng = List.zipWith longLines d.cur d.lpdone ∧
    w.eds.lpdone = List.zipWith (· ||| ·) d.lpdone (List.zipWith longLines d.cur d.lpdone) ∧ w.eds.lparm = false
  notLongPressed : longFires p now d = false →
    w.lng = List.replicate p.nb 0#8 ∧ w.eds.lpdone = d.lpdone ∧ w.eds.lparm = d.lparm

/-- Every poll is of one of the two kinds. The two timers read no register that the debounce timer writes. -/
theorem pollSteps_kinds (p : Params) (raw : List Byte) (now : Time) (d : Eds) :
    PollCommits p raw now d (pollSteps p raw now d) ∨ PollCommitsNothing p now d (pollSteps p raw now d) := by
  rcases pollSteps_cases p raw now d with ⟨t0, hne, -, -, e⟩ | ⟨pend, t0, run, -, e⟩ <;> rw [e]
  · exact .inl ⟨hne, rfl, rfl, rfl, rfl, rfl, rfl, rfl, rfl, rfl, rfl, rfl⟩
  · obtain ⟨rpt, lng, lpdone, repph, rept0, lparm, e', hrep, hnorep, hlong, hnolong⟩ :=
      pollTimers_cases p now { d with pend := pend, debt0 := t0, debrun := run }
    rw [e']
    exact .inr ⟨rfl, rfl, rfl, rfl, hrep, hnorep, hlong, hnolong⟩

theorem State.poll_kinds (s : State) :
    PollCommits s.params (rawBanksOf s) (nowOf s) s.eds s.poll ∨ PollCommitsNothing s.params (nowOf s) s.eds s.poll :=
  pollSteps_kinds _ _ _ _

section Kinds

variable {p : Params} {raw : List Byte} {now : Time} {d : Eds} {w : Poll}

theorem PollCommits.cur_ne (h : PollCommits p raw now d w) : w.eds.cur ≠ d.cur := h.cur ▸ h.differs

/-- What a commit leaves in each bank (R147). -/
theorem PollCommits.banks (h : PollCommits p raw now d w) {b : Nat} (hraw : raw.length = p.nb)
    (hcur : d.cur.length = p.nb) (hlpdone : d.lpdone.length = p.nb) (hb : b < p.nb) :
    w.up[b]? = some (upEdges (w.eds.cur.getD b 0#8) (d.cur.getD b 0#8)) ∧
    w.dn[b]? = some (downEdges (w.eds.cur.getD b 0#8) (d.cur.getD b 0#8)) ∧
    w.eds.lpdone[b]? = some (clearReleased (d.lpdone.getD b 0#8) (w.up.getD b 0#8)) := by
  have hup : (List.zipWith upEdges raw d.cur).length = p.nb := by simp [hraw, hcur]
  rw [h.cur, h.up, h.dn, h.lpdone]
  exact ⟨zipWith_getElem? upEdges _ _ b _ hraw hcur hb, zipWith_getElem? downEdges _ _ b _ hraw hcur hb,
    zipWith_getElem? clearReleased _ _ b _ hlpdone hup hb⟩

/-- A poll that commits nothing takes no line out of the long-press mask. -/
theorem PollCommitsNothing.lpdone_kept (h : PollCommitsNothing p now d w) {b : Nat} (hcur : d.cur.length = p.nb)
    (hlpdone : d.lpdone.length = p.nb) (hb : b < p.nb) :
    d.lpdone.getD b 0#8 &&& ~~~ w.eds.lpdone.getD b 0#8 = 0#8 := by
  cases hf : longFires p now d with
  | false =>
    obtain ⟨-, hkept, -⟩ := h.notLongPressed hf
    rw [hkept]; exact BitVec.and_not_self _
  | true =>
    obtain ⟨-, hfired, -⟩ := h.longPressed hf
    have hlong : (List.zipWith longLines d.cur d.lpdone).length = p.nb := by simp [hcur, hlpdone]
    rw [hfired, zipWith_getD _ hlpdone hlong hb, BitVec.not_or, ← BitVec.and_assoc, BitVec.and_not_self]
    exact BitVec.zero_and

/-- A poll that changes the committed vector commits. -/
theorem State.poll_commits {s : State} (h : s.poll.eds.cur ≠ s.eds.cur) :
    PollCommits s.params (rawBanksOf s) (nowOf s) s.eds s.poll :=
  s.poll_kinds.resolve_right fun hnothing => h hnothing.cur

theorem State.poll_commitsNothing {s : State} (h : s.poll.eds.cur = s.eds.cur) :
    PollCommitsNothing s.params (nowOf s) s.eds s.poll :=
  s.poll_kinds.resolve_left fun hcommits => hcommits.cur_ne h

/-! ## The debounce timer of a poll (R145, R146) -/

theorem restartOnChange_t0_of_restart {α : Type} [DecidableEq α] {now : Time} {raw : α} {t : DebounceTimer α}
    (h : t.run = false ∨ raw ≠ t.pend) : (restartOnChange now raw t).t0 = now := by
  rw [restartOnChange, if_pos h]

theorem restartOnChange_t0_of_same {α : Type} [DecidableEq α] {now : Time} {raw : α} {t : DebounceTimer α}
    (hrun : t.run = true) (hsame : raw = t.pend) : (restartOnChange now raw t).t0 = t.t0 := by
  rw [restartOnChange, if_neg]
  simp [hrun, hsame]

/-- A vector equal to the committed one stops the timer. -/
theorem pollSteps_of_equal (now : Time) (h : raw = d.cur) :
    (pollSteps p raw now d).eds.debrun = false ∧ (pollSteps p raw now d).eds.cur = d.cur ∧
      (pollSteps p raw now d).eds.pend = d.pend ∧ (pollSteps p raw now d).eds.debt0 = d.debt0 := by
  rcases pollSteps_cases p raw now d with ⟨-, hne, -⟩ | ⟨pend, t0, run, ⟨-, rfl, rfl, rfl⟩ | ⟨hne, -⟩, e⟩
  · exact absurd h hne
  · obtain ⟨_, _, _, _, _, _, e'⟩ := pollTimers_frame p now
      (startPoll p { d with pend := d.pend, debt0 := d.debt0, debrun := false })
    rw [e, e']; exact ⟨rfl, rfl, rfl, rfl⟩
  · exact absurd h hne

/-- A differing vector is the candidate of the timer, and is committed exactly if the timer has expired. -/
theorem pollSteps_of_differing (now : Time) (h : raw ≠ d.cur) :
    (pollSteps p raw now d).eds.pend = raw ∧
    (pollSteps p raw now d).eds.debt0 = (restartOnChange now raw ⟨d.pend, d.debt0, d.debrun⟩).t0 ∧
    (elapsed p now (pollSteps p raw now d).eds.debt0 < d.debounce.toNat →
      (pollSteps p raw now d).eds.debrun = true ∧ (pollSteps p raw now d).eds.cur = d.cur) ∧
    (d.debounce.toNat ≤ elapsed p now (pollSteps p raw now d).eds.debt0 →
      (pollSteps p raw now d).eds.debrun = false ∧ (pollSteps p raw now d).eds.cur = raw) := by
  rcases pollSteps_cases p raw now d with
    ⟨t0, -, rfl, hle, e⟩ | ⟨pend, t0, run, ⟨heq, -⟩ | ⟨-, hpend, ht0, hrun, hlt⟩, e⟩
  · rw [e]
    exact ⟨rfl, rfl, fun hlt => absurd hle (Nat.not_le.mpr hlt), fun _ => ⟨rfl, rfl⟩⟩
  · exact absurd heq h
  · obtain ⟨_, _, _, _, _, _, e'⟩ := pollTimers_frame p now
      (startPoll p { d with pend := pend, debt0 := t0, debrun := run })
    rw [e, e']
    exact ⟨hpend, ht0, fun _ => ⟨hrun, rfl⟩, fun hle => absurd hlt (Nat.not_lt.mpr hle)⟩

/-! ## Deliveries and status codes (R153, R154, R158) -/

@[simp] theorem deliveriesOf_length (kind : DeliveryKind) (w : Poll) :
    (deliveriesOf kind w).length = w.eds.nbind.toNat := by
  rw [deliveriesOf, List.length_map, List.length_range]

theorem deliveriesOf_getElem? (kind : DeliveryKind) (w : Poll) {j : Nat} (hj : j < w.eds.nbind.toNat) :
    (deliveriesOf kind w)[j]? = some (deliveryTo kind w j) := by
  rw [deliveriesOf, List.getElem?_map, List.getElem?_range hj]; rfl

/-- The delivery to slot `j`, by the slot's two fields. -/
theorem deliveryTo_eq (kind : DeliveryKind) (w : Poll) (j : Nat) : ∃ st,
    deliveryTo kind w j = ⟨j, kind, (w.eds.slot j).byp, st⟩ ∧ ((w.eds.slot j).byp = true → st = 0#5) ∧
      ((w.eds.slot j).byp = false → st = statusOf w (w.eds.slot j).pin.toNat) :=
  ⟨_, rfl, fun hbyp => if_pos hbyp, fun hbyp => if_neg (Bool.eq_false_iff.mp hbyp)⟩

/-- The bits of a status code (R153). -/
theorem packStatus_getLsbD (lng rpt up dn cur : Bool) :
    (packStatus lng rpt up dn cur).getLsbD 0 = cur ∧ (packStatus lng rpt up dn cur).getLsbD 1 = dn ∧
    (packStatus lng rpt up dn cur).getLsbD 2 = up ∧ (packStatus lng rpt up dn cur).getLsbD 3 = rpt ∧
    (packStatus lng rpt up dn cur).getLsbD 4 = lng := by
  revert lng rpt up dn cur; decide

/-- The five flags of a line, from position `p` of bank `b` of the working record (R153). -/
theorem statusOf_getLsbD (w : Poll) (b : Nat) {p : Nat} (hp : p < 8) :
    (statusOf w (8 * b + p)).getLsbD 0 = (w.eds.cur.getD b 0#8).getLsbD p ∧
    (statusOf w (8 * b + p)).getLsbD 1 = (w.dn.getD b 0#8).getLsbD p ∧
    (statusOf w (8 * b + p)).getLsbD 2 = (w.up.getD b 0#8).getLsbD p ∧
    (statusOf w (8 * b + p)).getLsbD 3 = (w.rpt.getD b 0#8).getLsbD p ∧
    (statusOf w (8 * b + p)).getLsbD 4 = (w.lng.getD b 0#8).getLsbD p := by
  simp only [← lineBit_bank _ hp]
  exact packStatus_getLsbD _ _ _ _ _

/-- `EDS.INIT` delivers levels only. -/
theorem statusOf_startPoll (p : Params) (d : Eds) (i : Nat) :
    statusOf (startPoll p d) i = if lineBit d.cur i then 1#5 else 0#5 := by
  simp only [statusOf, startPoll_eds, startPoll_dn, startPoll_up, startPoll_rpt, startPoll_lng, lineBit_replicate_zero]
  cases lineBit d.cur i <;> rfl

/-- The status codes of R158. -/
def sevenCodes : List StatusCode := [0x00#5, 0x01#5, 0x02#5, 0x05#5, 0x08#5, 0x10#5, 0x18#5]

/-- With the timers silent, an edge agrees with the level it leads to. -/
theorem packStatus_edge_mem {up dn cur : Bool} (hup : up = true → cur = true) (hdn : dn = true → cur = false) :
    packStatus false false up dn cur ∈ sevenCodes := by
  revert up dn cur; decide

/-- Without an edge, the timers fire on active lines only. -/
theorem packStatus_fired_mem {lng rpt cur : Bool} (hlng : lng = true → cur = false) (hrpt : rpt = true → cur = false) :
    packStatus lng rpt false false cur ∈ sevenCodes := by
  revert lng rpt cur; decide

theorem PollCommits.statusOf_mem (h : PollCommits p raw now d w) (i : Nat) : statusOf w i ∈ sevenCodes := by
  have hi : i % 8 < 8 := Nat.mod_lt i (by decide)
  rw [statusOf, h.rpt, h.lng, h.up, h.dn, h.cur, lineBit_replicate_zero]
  refine packStatus_edge_mem (fun hup => ?_) (fun hdn => ?_)
  · have hbit := lineBit_of_zipWith hup
    rw [upEdges_getLsbD, Bool.and_eq_true] at hbit
    exact hbit.1
  · have hbit := lineBit_of_zipWith hdn
    rw [downEdges_getLsbD _ _ hi, Bool.and_eq_true, Bool.not_eq_true'] at hbit
    exact hbit.1

/-- The lines that repeat in a poll that commits nothing are active. -/
theorem PollCommitsNothing.active_of_rpt (h : PollCommitsNothing p now d w) {i : Nat} (hi : lineBit w.rpt i = true) :
    lineBit w.eds.cur i = false := by
  cases hf : repeatFires p now d with
  | false =>
    obtain ⟨hrpt, -⟩ := h.unrepeated hf
    rw [hrpt, lineBit_replicate_zero] at hi; cases hi
  | true =>
    obtain ⟨hrpt, -⟩ := h.repeated hf
    have hbit := lineBit_of_map (hrpt ▸ hi)
    rw [activeLines_getLsbD _ (Nat.mod_lt i (by decide)), Bool.not_eq_true'] at hbit
    rw [h.cur]; exact hbit

/-- The lines that get `Long` in a poll that commits nothing are active and not masked. -/
theorem PollCommitsNothing.active_unmasked_of_lng (h : PollCommitsNothing p now d w) {i : Nat}
    (hi : lineBit w.lng i = true) : lineBit w.eds.cur i = false ∧ lineBit d.lpdone i = false := by
  cases hf : longFires p now d with
  | false =>
    obtain ⟨hlng, -⟩ := h.notLongPressed hf
    rw [hlng, lineBit_replicate_zero] at hi; cases hi
  | true =>
    obtain ⟨hlng, -⟩ := h.longPressed hf
    have hbit := lineBit_of_zipWith (hlng ▸ hi)
    rw [longLines_getLsbD _ _ (Nat.mod_lt i (by decide)), Bool.and_eq_true, Bool.not_eq_true',
      Bool.not_eq_true'] at hbit
    obtain ⟨hcur, hmask⟩ := hbit
    exact ⟨h.cur ▸ hcur, hmask⟩

theorem PollCommitsNothing.statusOf_mem (h : PollCommitsNothing p now d w) (i : Nat) : statusOf w i ∈ sevenCodes := by
  rw [statusOf, h.up, h.dn, lineBit_replicate_zero]
  refine packStatus_fired_mem (fun hlng => ?_) h.active_of_rpt
  obtain ⟨hactive, -⟩ := h.active_unmasked_of_lng hlng
  exact hactive

/-- Whatever slot it goes to, a delivery of a poll holds one of the seven codes. -/
theorem deliveryTo_poll_mem (kind : DeliveryKind) (s : State) (j : Nat) :
    (deliveryTo kind s.poll j).st ∈ sevenCodes := by
  obtain ⟨st, e, hbypass, hstatus⟩ := deliveryTo_eq kind s.poll j
  rw [e]
  cases hbyp : (s.poll.eds.slot j).byp with
  | true => rw [hbypass hbyp]; exact List.mem_cons_self
  | false =>
    rw [hstatus hbyp]
    exact s.poll_kinds.elim (·.statusOf_mem _) (·.statusOf_mem _)

/-! ## The long-press mask (R147, R151) -/

/-- A commit keeps the mask bit of a line that is active afterwards: such a line has no `Up` edge. -/
theorem PollCommits.lpdone_of_active (h : PollCommits p raw now d w) (hraw : raw.length = p.nb)
    (hcur : d.cur.length = p.nb) (hlpdone : d.lpdone.length = p.nb) {i : Nat} (hi : i < 8 * p.nb)
    (hmask : lineBit d.lpdone i = true) (hactive : lineBit w.eds.cur i = false) : lineBit w.eds.lpdone i = true := by
  have hk : i % 8 < 8 := Nat.mod_lt i (by decide)
  have hup : (List.zipWith upEdges raw d.cur).length = p.nb := by simp [hraw, hcur]
  rw [h.cur] at hactive
  rw [lineBit] at hmask hactive
  rw [h.lpdone, lineBit_zipWith _ hlpdone hup hi, clearReleased_getLsbD _ _ hk, zipWith_getD _ hraw hcur (by omega),
    upEdges_getLsbD, hmask, hactive]
  rfl

/-- After a poll that commits nothing, the mask holds the lines it held and the lines that got `Long`. -/
theorem PollCommitsNothing.lpdone_line (h : PollCommitsNothing p now d w) (hcur : d.cur.length = p.nb)
    (hlpdone : d.lpdone.length = p.nb) {i : Nat} (hi : i < 8 * p.nb) :
    lineBit w.eds.lpdone i = (lineBit d.lpdone i || lineBit w.lng i) := by
  cases hf : longFires p now d with
  | false =>
    obtain ⟨hlng, hkept, -⟩ := h.notLongPressed hf
    rw [hlng, hkept, lineBit_replicate_zero, Bool.or_false]
  | true =>
    obtain ⟨hlng, hfired, -⟩ := h.longPressed hf
    have hlong : (List.zipWith longLines d.cur d.lpdone).length = p.nb := by simp [hcur, hlpdone]
    rw [hlng, hfired, lineBit_zipWith _ hlpdone hlong hi, BitVec.getLsbD_or]; rfl

end Kinds

/-! ## The obligations -/

/-- Settles O26: `Eds.load` is the register update that the statement writes out, and with empty per-poll arrays a status
code is the level of its pin (`statusOf_startPoll`). -/
theorem edsInitTakesTheVectorAsCommitted : Obligations.EdsInitTakesTheVectorAsCommitted := by
  refine ⟨fun k => decode_append _ k, fun s => ⟨deliveriesOf .init s.initPoll, ?exec, deliveriesOf_length .init _,
    fun j hj => ?delivery⟩⟩
  case exec =>
    have hzero : (rawBanksOf s).map (fun _ => 0#8) = List.replicate s.params.nb 0#8 := by
      rw [List.map_const', rawBanksOf_length]
    rw [exec_edsInit, Eds.load, hzero]; rfl
  case delivery =>
    obtain ⟨st, e, hbypass, hstatus⟩ := deliveryTo_eq .init s.initPoll j
    refine ⟨st, (deliveriesOf_getElem? .init s.initPoll hj).trans (congrArg some e), hbypass, fun hbyp hpin => ?_⟩
    rw [hstatus hbyp, State.initPoll, statusOf_startPoll]
    exact congrArg (fun level : Bool => if level then 1#5 else 0#5) (lineBit_rawBanksOf s _ hpin)

/-- Settles O27: the debounce timer by cases of the compare (`pollSteps_of_equal`, `pollSteps_of_differing`). -/
theorem pollDebouncesTheWholeVector : Obligations.PollDebouncesTheWholeVector := by
  refine ⟨fun k => decode_append _ k, fun s => ⟨_, exec_edsPoll s, ⟨rfl, rfl, rfl, rfl, rfl⟩, pollSteps_frame _ _ _ _,
    pollSteps_of_equal _, fun hne => ?_⟩⟩
  obtain ⟨hpend, hdebt0, hwaits, hcommits⟩ := pollSteps_of_differing (p := s.params) (nowOf s) hne
  exact ⟨hpend, fun hrestart => hdebt0.trans (restartOnChange_t0_of_restart hrestart),
    fun hrun hsame => hdebt0.trans (restartOnChange_t0_of_same hrun hsame), hwaits, hcommits⟩

/-- Settles O28, field by field from the two kinds of poll. -/
theorem pollEdgesAndTimersOfACommit : Obligations.PollEdgesAndTimersOfACommit := by
  intro s hs
  obtain ⟨hcur, -, hlpdone, -⟩ := hs.eds
  refine ⟨_, _, exec_edsPoll s, rfl, rfl, rfl, fun hne => ?commits, fun heq => ?nothing⟩
  case commits =>
    have hc := State.poll_commits hne
    exact ⟨hc.cur, fun b hb => hc.banks (rawBanksOf_length s) hcur hlpdone hb, hc.timers⟩
  case nothing =>
    have hn := State.poll_commitsNothing heq
    exact ⟨hn.up, hn.dn, hn.anchor, fun b hb => hn.lpdone_kept hcur hlpdone hb⟩

/-- Settles O29: `repeatFires_iff` is the condition of the statement; a commit leaves the timer silent. -/
theorem pollRepeatTimer : Obligations.PollRepeatTimer := by
  intro s hs
  obtain ⟨hcur, -⟩ := hs.eds
  have hfires := repeatFires_iff s.params (nowOf s) s.eds
  refine ⟨_, _, exec_edsPoll s, rfl, fun hoff => ?disabled, fun hne => (State.poll_commits hne).rpt,
    fun hdly hint heq => ⟨fun hdue => ?fires, fun hdue => ?waits⟩⟩
  case disabled =>
    rcases s.poll_kinds with hc | hn
    · obtain ⟨-, -, -, hrept0, -⟩ := hc.timers
      exact ⟨hc.rpt, hrept0, fun heq => absurd heq hc.cur_ne⟩
    · have hsilent : repeatFires s.params (nowOf s) s.eds = false := by
        refine Bool.eq_false_iff.mpr fun hf => ?_
        obtain ⟨hdly, hint, -⟩ := hfires.mp hf
        exact hoff.elim hdly hint
      obtain ⟨hrpt, hrepph, hrept0⟩ := hn.unrepeated hsilent
      exact ⟨hrpt, hrept0, fun _ => hrepph⟩
  case fires =>
    obtain ⟨hrpt, hregs⟩ := (State.poll_commitsNothing heq).repeated (hfires.mpr ⟨hdly, hint, hdue⟩)
    refine ⟨fun b hb => ?_, hregs⟩
    have hbank : (s.eds.cur.map activeLines)[b]? = some (~~~ s.eds.cur.getD b 0#8) := by
      simp [activeLines, List.getD, hcur, hb]
    exact (congrArg (·[b]?) hrpt).trans hbank
  case waits =>
    refine (State.poll_commitsNothing heq).unrepeated (Bool.eq_false_iff.mpr fun hf => ?_)
    obtain ⟨-, -, hdue'⟩ := hfires.mp hf
    exact hdue hdue'

/-- Settles O30: `longFires_iff` is the condition of the statement; a commit leaves the timer silent. -/
theorem pollLongPressTimer : Obligations.PollLongPressTimer := by
  intro s hs
  obtain ⟨hcur, -, hlpdone, -⟩ := hs.eds
  have hfires := longFires_iff s.params (nowOf s) s.eds
  refine ⟨_, _, exec_edsPoll s, rfl, fun hne => (State.poll_commits hne).lng, fun heq =>
    ⟨fun hdly harmed hdue => ?fires, fun hoff => ?silent⟩⟩
  case fires =>
    obtain ⟨hlng, hmask, hparm⟩ := (State.poll_commitsNothing heq).longPressed (hfires.mpr ⟨hdly, harmed, hdue⟩)
    have hlong : s.poll.lng.length = s.params.nb := by simp [hlng, hcur, hlpdone]
    refine ⟨fun b hb => ⟨?_, ?_⟩, hparm⟩
    · exact (congrArg (·[b]?) hlng).trans (zipWith_getElem? longLines _ _ b _ hcur hlpdone hb)
    · rw [← hlng] at hmask
      exact (congrArg (·[b]?) hmask).trans (zipWith_getElem? (· ||| ·) _ _ b _ hlpdone hlong hb)
  case silent =>
    refine (State.poll_commitsNothing heq).notLongPressed (Bool.eq_false_iff.mpr fun hf => ?_)
    obtain ⟨hdly, harmed, hdue⟩ := hfires.mp hf
    rcases hoff with hzero | hdisarmed | hlt
    · exact hdly hzero
    · exact Bool.false_ne_true (hdisarmed.symm.trans harmed)
    · exact Nat.not_lt.mpr hdue hlt

/-- Settles O31: a poll leaves the binding table alone (`pollSteps_frame`), and a code's bits are the five flags of its
line (`statusOf_getLsbD`). -/
theorem pollDeliversOneStatusPerBoundSlot : Obligations.PollDeliversOneStatusPerBoundSlot := by
  intro s
  obtain ⟨-, -, -, -, hnbind, hslots, -⟩ := pollSteps_frame s.params (rawBanksOf s) (nowOf s) s.eds
  have hcount : s.poll.eds.nbind.toNat = s.eds.nbind.toNat := congrArg BitVec.toNat hnbind
  refine ⟨_, _, exec_edsPoll s, rfl, rfl, (deliveriesOf_length .check _).trans hcount, fun j hj => ?_⟩
  have hslot : s.poll.eds.slot j = s.eds.slot j := slot_of_slots_eq hslots j
  obtain ⟨st, e, hbypass, hstatus⟩ := deliveryTo_eq .check s.poll j
  rw [hslot] at e hbypass hstatus
  refine ⟨st, (deliveriesOf_getElem? .check s.poll (hcount ▸ hj)).trans (congrArg some e), hbypass,
    fun hbyp b p hp hpin => ?_⟩
  rw [hstatus hbyp, hpin]
  exact statusOf_getLsbD s.poll b hp

/-- Settles O32: every delivery is one of `deliveryTo_poll_mem`. -/
theorem onlySevenStatusCodesOccur : Obligations.OnlySevenStatusCodesOccur := by
  intro s t ev h hr x hx
  obtain ⟨-, rfl⟩ := poll_of_exec_edsPoll h hr
  obtain ⟨j, -, rfl⟩ := List.mem_map.mp hx
  exact deliveryTo_poll_mem .check s j

/-- Settles O33: a committing poll fires no long-press and clears the lines that went inactive only; any other adds to the
mask the lines that get `Long`. -/
theorem longIsMaskedByTheLongPressMask : Obligations.LongIsMaskedByTheLongPressMask := by
  intro s t ev hs h hr i hi
  obtain ⟨hcur, -, hlpdone, -⟩ := hs.eds
  obtain ⟨ht, rfl⟩ := poll_of_exec_edsPoll h hr
  rw [ht]
  rcases s.poll_kinds with hc | hn
  · refine ⟨fun (hlng : lineBit s.poll.lng i = true) => ?_, hc.lpdone_of_active (rawBanksOf_length s) hcur hlpdone hi⟩
    rw [hc.lng, lineBit_replicate_zero] at hlng; cases hlng
  · have hmask := hn.lpdone_line hcur hlpdone hi
    refine ⟨fun (hlng : lineBit s.poll.lng i = true) => ?_, fun hset _ => by rw [hmask, hset, Bool.true_or]⟩
    obtain ⟨hactive, hclear⟩ := hn.active_unmasked_of_lng hlng
    exact ⟨hclear, by rw [hmask, hlng, Bool.or_true], hactive⟩

/-- Settles O34: the three outcomes of EDS.BIND, in the order of its tests. -/
theorem bindAppendsOrRefuses : Obligations.BindAppendsOrRefuses := by
  refine ⟨fun k => decode_append _ k, fun s pin => ⟨fun hfull => exec_edsBind_full hfull pin,
    fun hbyp hpin => exec_edsBind_badPin hbyp hpin, fun hroom hpin => exec_edsBind_append hroom fun ⟨hbyp, hout⟩ => ?_⟩⟩
  rcases hpin with hset | hin
  · exact Bool.false_ne_true (hbyp.symm.trans hset)
  · exact Nat.not_lt.mpr hout hin

/-- Settles O35: the fields of the descriptor are `descriptor_fields`. -/
theorem nextGivesTheSlotAtTheCursor : Obligations.NextGivesTheSlotAtTheCursor := by
  refine ⟨fun k => decode_append _ k, fun s => ⟨exec_edsNext_empty, fun hbound => ⟨s.eds.descriptor, ?_⟩⟩⟩
  obtain ⟨hreserved, hbyp, hpin, hcursor⟩ := descriptor_fields s.eds
  exact ⟨hreserved, hbyp, hpin, hcursor, exec_edsNext_bound hbound⟩

end Sys2Proof.Machine
end

section
/-! PROOFS of the statements on the encoder decoder (43_encoder_decoder.md): QED.INIT (R173), QED.UPD with its skipped
tick (R176), its rotation (R177 to R186), its switches (R187 to R190) and its modes (R191 to R193), the read API (R194 to
R197), and the rule that a count changes by a decode event only (R198(d)). A skipped vector rotates nothing
(`tickLines_eq_tickRotate`), so a processed tick needs no case split on R177; what it leaves is said once, in the three
parts `TickRotates`, `TickSwitches` and `TickCyclesModes`. -/

namespace Sys2Proof.Machine

/-! ## The operations (R173, R174, R194 to R197) -/

theorem exec_qedInit (s : State) :
    exec .qedInit s =
      .next (({ s with qed := s.qed.load (planesOf s) (nowOf s) } : State).answered 0#32 false) := rfl

/-- The working record of a `QED.UPD` in state `s`. -/
def State.upd (s : State) : Tick := tick s.params (planesOf s) (nowOf s) s.qed

theorem exec_qedUpd (s : State) :
    exec .qedUpd s = .next (({ s with qed := s.upd.qed } : State).answered 0#32 false (.tick s.upd.ev)) := rfl

/-- The registers after a tick, and the record it gave, by the tick's working record. -/
theorem upd_of_exec_qedUpd {s t : State} {ev : TickEvent} (h : exec .qedUpd s = .next t)
    (hr : t.responses = s.responses ++ [⟨0#32, false, .tick ev⟩]) : t.qed = s.upd.qed ∧ ev = s.upd.ev := by
  rw [exec_qedUpd, Host.Outcome.next.injEq] at h
  subst h
  have hev := List.append_cancel_left hr
  simp only [List.cons.injEq, Response.mk.injEq, EventRecord.tick.injEq, true_and, and_true] at hev
  exact ⟨rfl, hev.symm⟩

theorem exec_qedRdacc {s : State} {e : Byte} (h : e.toNat < s.params.ne) :
    exec (.qedRdacc e) s =
      .next (({ s with qed := s.qed.setEnc e.toNat { s.qed.enc e.toNat with count := 0#32 } } : State).answered
        (s.qed.enc e.toNat).count false) := if_pos h

theorem exec_qedRdabs {s : State} {e : Byte} (h : e.toNat < s.params.ne) :
    exec (.qedRdabs e) s =
      .next (({ s with qed := { s.qed with cntchg := clearBit s.qed.cntchg e.toNat } } : State).answered
        (s.qed.enc e.toNat).count (s.qed.cntchg.getLsbD e.toNat)) := if_pos h

theorem exec_qedRdmode {s : State} {e : Byte} (h : e.toNat < s.params.ne) :
    exec (.qedRdmode e) s =
      .next (({ s with qed := { s.qed with modechg := clearBit s.qed.modechg e.toNat } } : State).answered
        ((s.qed.enc e.toNat).mode.setWidth 32) (s.qed.modechg.getLsbD e.toNat)) := if_pos h

/-- An `e` that selects no encoder makes each of the three reads a no-op that gives 0 (R200). -/
theorem exec_qed_unselected {s : State} {e : Byte} (h : s.params.ne ≤ e.toNat) :
    exec (.qedRdacc e) s = .next (s.answered 0#32 false) ∧
    exec (.qedRdabs e) s = .next (s.answered 0#32 false) ∧
    exec (.qedRdmode e) s = .next (s.answered 0#32 false) :=
  ⟨if_neg (Nat.not_lt.mpr h), if_neg (Nat.not_lt.mpr h), if_neg (Nat.not_lt.mpr h)⟩

/-- The four sticky masks as QED.RDTRN packs them. -/
def Qed.stickyWord (q : Qed) : Word := q.chgqdn ++ q.chgqup ++ q.chgdn ++ q.chgup

theorem exec_qedRdtrn (s : State) :
    exec .qedRdtrn s =
      .next (({ s with qed := { s.qed with chgup := 0#8, chgdn := 0#8, chgqup := 0#8, chgqdn := 0#8 } } :
        State).answered s.qed.stickyWord false) := rfl

theorem stickyWord_fields (q : Qed) :
    q.stickyWord.extractLsb' 24 8 = q.chgqdn ∧ q.stickyWord.extractLsb' 16 8 = q.chgqup ∧
      q.stickyWord.extractLsb' 8 8 = q.chgdn ∧ q.stickyWord.extractLsb' 0 8 = q.chgup := by
  refine ⟨?_, ?_, ?_, ?_⟩
  all_goals
    refine BitVec.eq_of_getLsbD_eq fun i hi => ?_
    simp only [Qed.stickyWord, BitVec.getLsbD_extractLsb', BitVec.getLsbD_append]
    grind

/-! ## A skipped vector rotates nothing (R177) -/

/-- Lines that did not change have no edge, whatever the inversion and the half-cycle masks. -/
theorem pulsesOf_prev (p : Params) (q : Qed) : pulsesOf p q.prev q = (0#8, 0#8) := by
  have hrise : ∀ a, riseMask a a = 0#8 := BitVec.and_not_self
  have hfall : ∀ a, fallMask q.half a a = 0#8 := fun a => by
    rw [fallMask, BitVec.and_comm (~~~a), BitVec.and_not_self]; exact BitVec.zero_and
  simp only [pulsesOf, hrise, hfall, upPulses, downPulses, BitVec.zero_and, BitVec.or_zero]

/-- The rotation steps on an unchanged vector would leave everything as it is. -/
theorem tickRotate_prev_eq (p : Params) (now : Time) (q : Qed) :
    tickRotate p q.prev now ⟨q, TickEvent.zero⟩ = ⟨q, TickEvent.zero⟩ := by
  have hencs : (q.encs.mapIdx fun _ x => rotateEncoder p now false false x) = q.encs := by
    refine List.ext_getElem? fun i => ?_
    simp [rotateEncoder]
  simp only [tickRotate, pulsesOf_prev, BitVec.getLsbD_zero, hencs, BitVec.zero_and, BitVec.or_zero]
  rfl

/-- So the skip of R177 changes no outcome: every processed tick leaves what the rotation steps leave. -/
theorem tickLines_eq_tickRotate (p : Params) (v : Planes) (now : Time) (q : Qed) :
    tickLines p v now ⟨q, TickEvent.zero⟩ = tickRotate p v now ⟨q, TickEvent.zero⟩ := by
  rcases tickLines_cases p v now ⟨q, TickEvent.zero⟩ with ⟨rfl, e⟩ | ⟨-, e⟩
  · rw [e]; exact (tickRotate_prev_eq p now q).symm
  · exact e

/-! ## What a processed tick leaves (R174) -/

/-- The masks of a processed tick (R178 to R186): what it records of time and lines, the pulse flags, and the sticky masks
that collect them. -/
structure TickPulses (p : Params) (v : Planes) (now : Time) (q : Qed) (w : Tick) : Prop where
  config : w.qed.inv = q.inv ∧ w.qed.half = q.half ∧ w.qed.modewrap = q.modewrap
  lasttick : w.qed.lasttick = now
  prev : w.qed.prev = v
  pulses : w.ev.up = (pulsesOf p v q).1 ∧ w.ev.dn = (pulsesOf p v q).2
  quick : w.ev.qup = w.ev.up &&& quickMask p now q.encs ∧ w.ev.qdn = w.ev.dn &&& quickMask p now q.encs
  sticky : w.qed.chgup = q.chgup ||| w.ev.up ∧ w.qed.chgdn = q.chgdn ||| w.ev.dn ∧
    w.qed.chgqup = q.chgqup ||| w.ev.qup ∧ w.qed.chgqdn = q.chgqdn ||| w.ev.qdn ∧
    w.qed.cntchg = q.cntchg ||| w.ev.up ||| w.ev.dn

/-- The switch part of a processed tick (R187 to R190): the debounce of the pattern, the flags of old and new pattern, and
the pattern long-press, which a commit arms anew. -/
structure TickSwitches (p : Params) (pat : Byte) (now : Time) (q : Qed) (w : Tick) : Prop where
  same : pat = q.swcur →
    w.qed.swrun = false ∧ w.qed.swpend = q.swpend ∧ w.qed.swt0 = q.swt0 ∧ w.qed.swcur = q.swcur
  differing : pat ≠ q.swcur →
    w.qed.swpend = pat ∧ w.qed.swt0 = (restartOnChange now pat ⟨q.swpend, q.swt0, q.swrun⟩).t0 ∧
    (elapsed p now w.qed.swt0 < p.swDebounce → w.qed.swrun = true ∧ w.qed.swcur = q.swcur) ∧
    (p.swDebounce ≤ elapsed p now w.qed.swt0 → w.qed.swrun = false ∧ w.qed.swcur = pat)
  flags : w.ev.act = activated w.qed.swcur q.swcur ∧ w.ev.deact = deactivated w.qed.swcur q.swcur ∧
    w.ev.tog = toggled w.qed.swcur q.swcur ∧ w.ev.shortp = shortPresses w.qed.swcur q.swcur q.lplatch
  kept : w.qed.swcur = q.swcur →
    w.qed.patt0 = q.patt0 ∧
    (patternFires p now q = true →
      w.ev.longp = longPresses q.swcur q.lplatch ∧ w.qed.lplatch = q.lplatch ||| q.swcur ∧ w.qed.qlparm = false) ∧
    (patternFires p now q = false → w.ev.longp = 0#8 ∧ w.qed.lplatch = q.lplatch ∧ w.qed.qlparm = q.qlparm)
  committed : w.qed.swcur ≠ q.swcur →
    w.qed.patt0 = now ∧
    (1 ≤ p.encLpt → w.qed.lplatch = q.lplatch &&& w.qed.swcur ∧ w.qed.qlparm = true ∧ w.ev.longp = 0#8)

/-- The encoders after a processed tick with record `w`: each is rotated by its own pulses (R181, R182), then gets its next
mode from its own switch, as the switch part left it (R191 to R193). -/
structure TickEncoders (p : Params) (now : Time) (q : Qed) (w : Tick) : Prop where
  length : w.qed.encs.length = q.encs.length
  enc : ∀ e < q.encs.length, w.qed.enc e =
    { rotateEncoder p now (w.ev.up.getLsbD e) (w.ev.dn.getLsbD e) (q.enc e) with
      mode := nextMode (q.modewrap.getLsbD e) (w.qed.swcur.getLsbD e) (w.ev.shortp.getLsbD e) (w.ev.longp.getLsbD e)
        (q.enc e).nmodes (q.enc e).mode }
  modechg : q.encs.length ≤ 8 → ∀ e < q.encs.length,
    w.qed.modechg.getLsbD e = (q.modechg.getLsbD e || decide ((w.qed.enc e).mode ≠ (q.enc e).mode))

/-- The changed bits after the mode step: the old ones and the encoders whose mode it changed. -/
theorem modechg_tickModes_getLsbD (w : Tick) {e : Nat} (hlength : w.qed.encs.length ≤ 8) (h : e < w.qed.encs.length) :
    (tickModes w).qed.modechg.getLsbD e =
      (w.qed.modechg.getLsbD e || decide (((tickModes w).qed.enc e).mode ≠ (w.qed.enc e).mode)) := by
  have hbit : (w.qed.encs.mapIdx fun i x => modeAfter w.qed w.ev i x != x.mode).getD e false =
      (modeAfter w.qed w.ev e (w.qed.enc e) != (w.qed.enc e).mode) := by
    simp [Qed.enc, List.getD, h]
  rw [enc_tickModes w e h, tickModes_modechg, BitVec.getLsbD_or, maskOf_getLsbD _ _ (by simpa using hlength), hbit]
  simp [bne, beq_eq_decide]

/-- The record of a processed tick before its mode step. -/
theorem tickSteps_before_modes (p : Params) (v : Planes) (now : Time) (q : Qed) :
    ∃ m : Tick, tickSteps p v now q = tickModes m ∧ TickPulses p v now q m ∧ TickSwitches p v.s now q m ∧
      m.qed.modechg = q.modechg ∧
      m.qed.encs = q.encs.mapIdx fun e x => rotateEncoder p now (m.ev.up.getLsbD e) (m.ev.dn.getLsbD e) x := by
  obtain ⟨l, swpend, swt0, swrun, swcur, lplatch, patt0, qlparm, act, deact, tog, shortp, longp, hl, e, hsame, hdiffering,
    hact, hdeact, htog, hshortp, hkept, hcommitted, -⟩ := tickSteps_cases p v now q
  rw [tickLines_eq_tickRotate] at hl
  subst hl
  exact ⟨_, e, ⟨⟨rfl, rfl, rfl⟩, rfl, rfl, ⟨rfl, rfl⟩, ⟨rfl, rfl⟩, ⟨rfl, rfl, rfl, rfl, rfl⟩⟩,
    ⟨hsame, hdiffering, ⟨hact, hdeact, htog, hshortp⟩, hkept, hcommitted⟩, rfl, rfl⟩

/-- The encoders after the mode step, if those before it are rotated. -/
theorem tickModes_encoders {p : Params} {now : Time} {q : Qed} {m : Tick} (hwrap : m.qed.modewrap = q.modewrap)
    (hchg : m.qed.modechg = q.modechg)
    (hencs : m.qed.encs = q.encs.mapIdx fun e x => rotateEncoder p now (m.ev.up.getLsbD e) (m.ev.dn.getLsbD e) x) :
    TickEncoders p now q (tickModes m) := by
  have hlength : m.qed.encs.length = q.encs.length := by rw [hencs, List.length_mapIdx]
  have henc : ∀ e < q.encs.length,
      m.qed.enc e = rotateEncoder p now (m.ev.up.getLsbD e) (m.ev.dn.getLsbD e) (q.enc e) := fun e he => by
    rw [Qed.enc, hencs]; exact enc_mapIdx q _ e he
  refine ⟨by rw [tickModes_encs, List.length_mapIdx, hlength], fun e he => ?enc, fun h8 e he => ?modechg⟩
  all_goals obtain ⟨hnmodes, hmode⟩ := rotateEncoder_modes p now (m.ev.up.getLsbD e) (m.ev.dn.getLsbD e) (q.enc e)
  case enc => rw [enc_tickModes m e (hlength ▸ he), henc e he, modeAfter, hnmodes, hmode, hwrap]; rfl
  case modechg => rw [modechg_tickModes_getLsbD m (hlength ▸ h8) (hlength ▸ he), hchg, henc e he, hmode]

/-- Every processed tick, in its three parts. -/
theorem tickSteps_parts (p : Params) (v : Planes) (now : Time) (q : Qed) :
    TickPulses p v now q (tickSteps p v now q) ∧ TickSwitches p v.s now q (tickSteps p v now q) ∧
      TickEncoders p now q (tickSteps p v now q) := by
  obtain ⟨m, e, hp, hs, hchg, hencs⟩ := tickSteps_before_modes p v now q
  obtain ⟨-, -, hwrap⟩ := hp.config
  rw [e]
  exact ⟨⟨hp.config, hp.lasttick, hp.prev, hp.pulses, hp.quick, hp.sticky⟩,
    ⟨hs.same, hs.differing, hs.flags, hs.kept, hs.committed⟩, tickModes_encoders hwrap hchg hencs⟩

/-- A tick with no elapsed time (R176). -/
theorem State.upd_skipped {s : State} (h : elapsed s.params (nowOf s) s.qed.lasttick = 0) :
    s.upd = ⟨s.qed, TickEvent.zero⟩ := if_pos h

/-- A tick with elapsed time (R174). -/
theorem State.upd_parts {s : State} (h : elapsed s.params (nowOf s) s.qed.lasttick ≠ 0) :
    TickPulses s.params (planesOf s) (nowOf s) s.qed s.upd ∧
      TickSwitches s.params (planesOf s).s (nowOf s) s.qed s.upd ∧ TickEncoders s.params (nowOf s) s.qed s.upd := by
  rw [State.upd, tick, if_neg h]; exact tickSteps_parts _ _ _ _

theorem State.Sized.encs {s : State} (hs : s.Sized) : s.params.ne ≤ 8 ∧ s.qed.encs.length = s.params.ne := by
  obtain ⟨⟨-, -, -, -, -, -, ⟨-, hne⟩, -⟩, -, -, -, -, -, hencs⟩ := hs
  exact ⟨hne, hencs⟩

/-! ## The rotation of one encoder (R178 to R183) -/

/-- The pulses of an encoder in a processed tick, from its bits of the sampled vector. -/
theorem State.upd_pulses {s : State} (hs : s.Sized) (ht : elapsed s.params (nowOf s) s.qed.lasttick ≠ 0) {e : Nat}
    (he : e < s.params.ne) {a1 a0 b half : Bool} (ha1 : a1 = (s.ports.rawEnc.getLsbD e ^^ s.qed.inv.getLsbD e))
    (ha0 : a0 = (s.qed.prev.a.getLsbD e ^^ s.qed.inv.getLsbD e)) (hb : b = s.ports.rawEnc.getLsbD (8 + e))
    (hhalf : half = s.qed.half.getLsbD e) :
    s.upd.ev.up.getLsbD e = ((a1 && !a0 && !b) || (!a1 && a0 && half && b)) ∧
    s.upd.ev.dn.getLsbD e = ((a1 && !a0 && b) || (!a1 && a0 && half && !b)) := by
  obtain ⟨hne, -⟩ := hs.encs
  obtain ⟨hup, hdn⟩ := (State.upd_parts ht).1.pulses
  have hbits := pulsesOf_getLsbD s.params (planesOf s) s.qed e hne he
  rw [planesOf_a_getLsbD s e hne, planesOf_b_getLsbD s e hne, decide_eq_true he, Bool.true_and, Bool.true_and] at hbits
  subst ha1 ha0 hb hhalf
  rw [hup, hdn]
  exact hbits

section Rotation

variable {p : Params} {v : Planes} {now : Time} {q : Qed} {w : Tick} {e : Nat} {x : Encoder}

theorem stepOf_of_vfast (hv : x.trigv = true) (h : elapsed p now x.trigt < p.tVfast) :
    stepOf p now x = (p.stepVfast, true) := if_pos ⟨hv, h⟩

theorem stepOf_of_fast (hv : x.trigv = true) (hvfast : p.tVfast ≤ elapsed p now x.trigt)
    (hfast : elapsed p now x.trigt < p.tFast) : stepOf p now x = (p.stepFast, true) :=
  (if_neg fun h => Nat.not_lt.mpr hvfast h.2).trans (if_pos ⟨hv, hfast⟩)

/-- The first trigger of an encoder, and a slow one, count a single step. -/
theorem stepOf_of_slow (hp : p.tVfast ≤ p.tFast) (h : x.trigv = false ∨ p.tFast ≤ elapsed p now x.trigt) :
    stepOf p now x = (1, false) := by
  rcases stepOf_cases p now x with ⟨hv, hlt, -⟩ | ⟨hv, -, hlt, -⟩ | ⟨-, e⟩
  case inr.inr => exact e
  all_goals
    rcases h with hfirst | hslow
    · exact absurd (hv.symm.trans hfirst) Bool.noConfusion
    · omega

/-- An up trigger adds the step, in CW-bit two's complement (R182). -/
theorem countAfter_up_toInt (hcw : p.cw ≤ 32) (count : Word) (n : Nat) :
    (countAfter p true count n).toInt = Int.bmod (count.toInt + n) (2 ^ p.cw) := by
  have hsum : ((count + BitVec.ofNat 32 n).toNat : Int) = (count.toNat + n : Int) % ((2 ^ 32 : Nat) : Int) := by
    rw [BitVec.toNat_add, BitVec.toNat_ofNat]; omega
  rw [countAfter, if_pos rfl, keepSigned_toInt _ _ hcw, bmod_of_emod _ _ _ hcw hsum, bmod_toNat_eq_toInt _ _ _ hcw]

/-- A down trigger subtracts it. -/
theorem countAfter_down_toInt (hcw : p.cw ≤ 32) (count : Word) (n : Nat) :
    (countAfter p false count n).toInt = Int.bmod (count.toInt - n) (2 ^ p.cw) := by
  have hdiff : ((count - BitVec.ofNat 32 n).toNat : Int) = (count.toNat + -n : Int) % ((2 ^ 32 : Nat) : Int) := by
    rw [BitVec.toNat_sub, BitVec.toNat_ofNat]; omega
  rw [countAfter, if_neg Bool.false_ne_true, keepSigned_toInt _ _ hcw, bmod_of_emod _ _ _ hcw hdiff,
    bmod_toNat_eq_toInt _ _ _ hcw, Int.sub_eq_add_neg]

theorem TickPulses.not_both (h : TickPulses p v now q w) (hup : w.ev.up.getLsbD e = true) :
    w.ev.dn.getLsbD e = false := by
  obtain ⟨hpu, hpd⟩ := h.pulses
  have hzero := congrArg (BitVec.getLsbD · e) (pulsesOf_exclusive p v q)
  simp only [← hpu, ← hpd, BitVec.getLsbD_and, hup, Bool.true_and, BitVec.getLsbD_zero] at hzero
  exact hzero

/-- The quick flags are the plain flags where the step is accelerated (R183). -/
theorem TickPulses.quick_getLsbD (h : TickPulses p v now q w) (hlength : q.encs.length ≤ 8) (he : e < q.encs.length) :
    w.ev.qup.getLsbD e = (w.ev.up.getLsbD e && (stepOf p now (q.enc e)).2) ∧
    w.ev.qdn.getLsbD e = (w.ev.dn.getLsbD e && (stepOf p now (q.enc e)).2) := by
  obtain ⟨hqup, hqdn⟩ := h.quick
  rw [hqup, hqdn, BitVec.getLsbD_and, BitVec.getLsbD_and, quickMask_getLsbD p now q e hlength he]
  exact ⟨rfl, rfl⟩

/-- A pulse sets the encoder's `CNTCHG` bit (R184). -/
theorem TickPulses.cntchg_of_pulse (h : TickPulses p v now q w)
    (hpulse : w.ev.up.getLsbD e = true ∨ w.ev.dn.getLsbD e = true) : w.qed.cntchg.getLsbD e = true := by
  obtain ⟨-, -, -, -, hcntchg⟩ := h.sticky
  rw [hcntchg, BitVec.getLsbD_or, BitVec.getLsbD_or]
  rcases hpulse with hup | hdn
  · rw [hup, Bool.or_true, Bool.true_or]
  · rw [hdn, Bool.or_true]

/-- What a trigger writes (R182). -/
theorem TickEncoders.of_trigger (h : TickEncoders p now q w) (he : e < q.encs.length)
    (htrig : w.ev.up.getLsbD e = true ∨ w.ev.dn.getLsbD e = true) :
    (w.qed.enc e).count = countAfter p (w.ev.up.getLsbD e) (q.enc e).count (stepOf p now (q.enc e)).1 ∧
      (w.qed.enc e).trigt = now ∧ (w.qed.enc e).trigv = true := by
  rw [h.enc e he]
  rcases rotateEncoder_cases p now (w.ev.up.getLsbD e) (w.ev.dn.getLsbD e) (q.enc e) with ⟨hup, hdn, -⟩ | ⟨-, e'⟩
  · rw [hup, hdn] at htrig; exact absurd htrig (by decide)
  · rw [e']; exact ⟨rfl, rfl, rfl⟩

theorem TickEncoders.of_no_trigger (h : TickEncoders p now q w) (he : e < q.encs.length)
    (hup : w.ev.up.getLsbD e = false) (hdn : w.ev.dn.getLsbD e = false) :
    (w.qed.enc e).count = (q.enc e).count ∧ (w.qed.enc e).trigt = (q.enc e).trigt ∧
      (w.qed.enc e).trigv = (q.enc e).trigv := by
  rw [h.enc e he, hup, hdn]; exact ⟨rfl, rfl, rfl⟩

theorem TickEncoders.nmodes_eq (h : TickEncoders p now q w) (he : e < q.encs.length) :
    (w.qed.enc e).nmodes = (q.enc e).nmodes := by
  rw [h.enc e he]; exact (rotateEncoder_modes p now _ _ _).1

theorem TickEncoders.mode_eq (h : TickEncoders p now q w) (he : e < q.encs.length) :
    (w.qed.enc e).mode = nextMode (q.modewrap.getLsbD e) (w.qed.swcur.getLsbD e) (w.ev.shortp.getLsbD e)
      (w.ev.longp.getLsbD e) (q.enc e).nmodes (q.enc e).mode := by
  rw [h.enc e he]

end Rotation

/-! ## The mode of one encoder (R191 to R193) -/

section Modes

variable {nmodes : Byte}

theorem nextMode_of_unused (h : nmodes.toNat % 128 = 0) (wrap held shortp longp : Bool) (mode : Byte) :
    nextMode wrap held shortp longp nmodes mode = mode := by
  rw [nextMode, modeCount_toNat]; exact if_pos h

theorem nextMode_of_momentary (h : nmodes.toNat % 128 = 1) (wrap held shortp longp : Bool) (mode : Byte) :
    nextMode wrap held shortp longp nmodes mode =
      if nmodes.getLsbD 7 then mode else if held then 1#8 else 0#8 := by
  rw [nextMode, modeCount_toNat, h]; rfl

theorem nextMode_of_cycling (h : 2 ≤ nmodes.toNat % 128) (wrap held shortp longp : Bool) (mode : Byte) :
    nextMode wrap held shortp longp nmodes mode =
      if (if nmodes.getLsbD 7 then longp else shortp) then incrementMode wrap (nmodes.toNat % 128) mode else mode := by
  rw [nextMode, modeCount_toNat]
  exact (if_neg (by omega)).trans (if_neg (by omega))

section Increment

variable {n : Nat} {mode : Byte} {wrap : Bool} (hn : n < 128)

include hn

theorem incrementMode_of_lt (h : mode.toNat < n) (wrap : Bool) :
    (incrementMode wrap n mode).toNat = mode.toNat + 1 := by
  rcases incrementMode_cases wrap n mode hn with ⟨-, e⟩ | ⟨hge, -, -⟩ | ⟨hge, -, -⟩
  · exact e
  · omega
  · omega

theorem incrementMode_of_wrap (h : n ≤ mode.toNat) (hwrap : wrap = true) : incrementMode wrap n mode = 1#8 := by
  rcases incrementMode_cases wrap n mode hn with ⟨hlt, -⟩ | ⟨-, -, e⟩ | ⟨-, hclamp, -⟩
  · omega
  · exact e
  · exact absurd (hwrap.symm.trans hclamp) Bool.noConfusion

theorem incrementMode_of_clamp (h : n ≤ mode.toNat) (hclamp : wrap = false) :
    (incrementMode wrap n mode).toNat = n := by
  rcases incrementMode_cases wrap n mode hn with ⟨hlt, -⟩ | ⟨-, hwrap, -⟩ | ⟨-, -, e⟩
  · omega
  · exact absurd (hwrap.symm.trans hclamp) Bool.noConfusion
  · exact e

end Increment

end Modes

/-! ## Counts (R198) -/

/-- A write of a mode byte leaves every count. -/
theorem writeNmodes_count (s : State) (f : Nat) (v : Word) {e : Nat} (he : e < s.qed.encs.length) :
    ((writeNmodes s f v).qed.enc e).count = (s.qed.enc e).count := by
  by_cases hf : e = f
  · subst hf
    exact (congrArg Encoder.count (enc_setEnc_self s.qed e
      { s.qed.enc e with nmodes := v.setWidth 8, mode := initialMode (v.setWidth 8) } he) :)
  · exact congrArg Encoder.count (enc_setEnc_ne s.qed f e _ hf)

/-- What can change the count of an encoder: a clearing operation, or a tick in which it triggers. -/
theorem QedUpdate.count_changed {s : State} {i : Instr} {q : Qed} (h : QedUpdate s i q) (hs : s.Sized) {e : Nat}
    (he : e < s.params.ne) (hne : (q.enc e).count ≠ (s.qed.enc e).count) :
    i = .rst ∨ i = .qedInit ∨ (∃ k : Byte, i = .qedRdacc k ∧ k.toNat = e) ∨
      (i = .qedUpd ∧ q.cntchg.getLsbD e = true ∧ (q.enc e).trigt = nowOf s) := by
  obtain ⟨-, hlength⟩ := hs.encs
  have hmem : e < s.qed.encs.length := hlength ▸ he
  cases h
  case reset => exact .inl rfl
  case load => exact .inr (.inl rfl)
  case rdacc k =>
    refine .inr (.inr (.inl ⟨k, rfl, ?_⟩))
    by_contra hk
    exact hne (congrArg Encoder.count (enc_setEnc_ne s.qed k.toNat e _ (Ne.symm hk)))
  case nmodes k f v =>
    exact absurd (writeNmodes_count s f v hmem) hne
  case tick =>
    change (s.upd.qed.enc e).count ≠ _ at hne
    by_cases ht : elapsed s.params (nowOf s) s.qed.lasttick = 0
    · rw [State.upd_skipped ht] at hne; exact absurd rfl hne
    · obtain ⟨hp, -, hE⟩ := State.upd_parts ht
      have htrig : s.upd.ev.up.getLsbD e = true ∨ s.upd.ev.dn.getLsbD e = true := by
        by_contra hnone
        obtain ⟨hup, hdn⟩ := not_or.mp hnone
        exact hne (hE.of_no_trigger hmem (Bool.eq_false_of_not_eq_true hup) (Bool.eq_false_of_not_eq_true hdn)).1
      obtain ⟨-, htrigt, -⟩ := hE.of_trigger hmem htrig
      exact .inr (.inr (.inr ⟨rfl, hp.cntchg_of_pulse htrig, htrigt⟩))
  all_goals exact absurd rfl hne

/-! ## The obligations -/

/-- Settles O37: `Qed.load` is the register update that the statement writes out; each encoder starts in the initial mode
of its mode count. -/
theorem qedInitTakesTheLinesAsSeen : Obligations.QedInitTakesTheLinesAsSeen := by
  refine ⟨fun k => decode_append _ k, fun s => ⟨_, exec_qedInit s, List.length_map _, fun e he => ?_⟩⟩
  have hload : (s.qed.encs.map Encoder.load)[e]? = some (s.qed.enc e).load := by simp [Qed.enc, List.getD, he]
  rw [hload, Encoder.load, initialMode, modeCount_toNat]

/-- Settles O39, field by field from the parts of a processed tick; a vector equal to `PREV` has no pulses
(`pulsesOf_prev`). -/
theorem processedTickFrame : Obligations.ProcessedTickFrame := by
  intro s ht
  obtain ⟨hp, -, hE⟩ := State.upd_parts ht
  refine ⟨_, _, exec_qedUpd s, rfl, ⟨rfl, rfl, rfl, rfl, rfl⟩, hp.config, hp.lasttick, hp.prev, hE.length,
    fun e he => hE.nmodes_eq he, fun hsame => ?_⟩
  obtain ⟨hup, hdn⟩ := hp.pulses
  rw [hsame, pulsesOf_prev] at hup hdn
  obtain ⟨hqup, hqdn⟩ := hp.quick
  rw [hup, BitVec.zero_and] at hqup
  rw [hdn, BitVec.zero_and] at hqdn
  have hsticky := hp.sticky
  rw [hup, hdn, hqup, hqdn] at hsticky
  simp only [BitVec.or_zero] at hsticky
  exact ⟨hup, hdn, hqup, hqdn, hsticky⟩

/-- Settles O40: the two pulse masks bit by bit (`State.upd_pulses`). -/
theorem pulseDirectionOfEachEncoder : Obligations.PulseDirectionOfEachEncoder := by
  intro s hs ht
  exact ⟨_, _, exec_qedUpd s, rfl, fun e he a1 a0 b half ha1 ha0 hb hhalf => State.upd_pulses hs ht he ha1 ha0 hb hhalf⟩

/-- Settles O41: the step and the quick flag are those of `stepOf`; a trigger counts up or down, never both. -/
theorem stepSizeAndCountOfEachEncoder : Obligations.StepSizeAndCountOfEachEncoder := by
  intro s hs ht
  have ⟨⟨_, _, _, _, _, _, _, ⟨_, hcw⟩, _, _, ⟨hfast, _⟩, _⟩, _⟩ := hs
  obtain ⟨hne, hlength⟩ := hs.encs
  obtain ⟨hp, -, hE⟩ := State.upd_parts ht
  refine ⟨_, _, exec_qedUpd s, rfl, fun e he => ?_⟩
  have hmem : e < s.qed.encs.length := hlength ▸ he
  obtain ⟨hqup, hqdn⟩ := hp.quick_getLsbD (hlength ▸ hne) hmem
  refine ⟨(stepOf s.params (nowOf s) (s.qed.enc e)).1, (stepOf s.params (nowOf s) (s.qed.enc e)).2,
    fun hv hlt => Prod.mk.inj (stepOf_of_vfast hv hlt), fun hv hle hlt => Prod.mk.inj (stepOf_of_fast hv hle hlt),
    fun hslow => Prod.mk.inj (stepOf_of_slow hfast hslow), hqup, hqdn, fun hup => ?up, fun hdn => ?down,
    fun htrig => (hE.of_trigger hmem htrig).2, fun hup hdn => hE.of_no_trigger hmem hup hdn⟩
  case up =>
    obtain ⟨hcount, -⟩ := hE.of_trigger hmem (.inl hup)
    rw [hup] at hcount
    exact (congrArg BitVec.toInt hcount).trans (countAfter_up_toInt hcw _ _)
  case down =>
    have hup : s.upd.ev.up.getLsbD e = false :=
      Bool.eq_false_of_not_eq_true fun hup => Bool.false_ne_true ((hp.not_both hup).symm.trans hdn)
    obtain ⟨hcount, -⟩ := hE.of_trigger hmem (.inr hdn)
    rw [hup] at hcount
    exact (congrArg BitVec.toInt hcount).trans (countAfter_down_toInt hcw _ _)

/-- Settles O42: a skipped tick has no pulses, a processed one collects them. -/
theorem stickyMasksCollectThePulses : Obligations.StickyMasksCollectThePulses := by
  intro s
  refine ⟨_, _, exec_qedUpd s, rfl, ?_⟩
  by_cases ht : elapsed s.params (nowOf s) s.qed.lasttick = 0
  · simp [State.upd_skipped ht, TickEvent.zero]
  · exact (State.upd_parts ht).1.sticky

/-- Settles O43: both ticks are skipped or both processed; in the second case the pulses of the encoder are a function of
its bits, and its registers and quick flags one of its registers and pulses. -/
theorem encodersAreIndependent : Obligations.EncodersAreIndependent := by
  intro s s' t t' ev ev' e hs hs' hparams he hnow hlast henc hraw hrawb hprev hinv hhalf h hr h' hr'
  obtain ⟨ht, rfl⟩ := upd_of_exec_qedUpd h hr
  obtain ⟨ht', rfl⟩ := upd_of_exec_qedUpd h' hr'
  rw [ht, ht']
  have hclock : elapsed s'.params (nowOf s') s'.qed.lasttick = elapsed s.params (nowOf s) s.qed.lasttick := by
    rw [hparams, hnow, hlast]
  by_cases hz : elapsed s.params (nowOf s) s.qed.lasttick = 0
  · rw [State.upd_skipped hz, State.upd_skipped (hclock.trans hz), henc]
    exact ⟨rfl, rfl, rfl, rfl, rfl, rfl, rfl⟩
  · have hz' : elapsed s'.params (nowOf s') s'.qed.lasttick ≠ 0 := hclock ▸ hz
    obtain ⟨hne, hlength⟩ := hs.encs
    obtain ⟨hne', hlength'⟩ := hs'.encs
    have he' : e < s'.params.ne := hparams ▸ he
    obtain ⟨hp, -, hE⟩ := State.upd_parts hz
    obtain ⟨hp', -, hE'⟩ := State.upd_parts hz'
    obtain ⟨hup, hdn⟩ := State.upd_pulses hs hz he rfl rfl rfl rfl
    obtain ⟨hup', hdn'⟩ := State.upd_pulses hs' hz' he' rfl rfl rfl rfl
    rw [← hraw, ← hinv, ← hprev, ← hrawb, ← hhalf] at hup' hdn'
    have hupEq := hup.trans hup'.symm
    have hdnEq := hdn.trans hdn'.symm
    obtain ⟨hqup, hqdn⟩ := hp.quick_getLsbD (hlength ▸ hne) (hlength ▸ he)
    obtain ⟨hqup', hqdn'⟩ := hp'.quick_getLsbD (hlength' ▸ hne') (hlength' ▸ he')
    rw [hE.enc e (hlength ▸ he), hE'.enc e (hlength' ▸ he'), hqup, hqdn, hqup', hqdn', ← hupEq, ← hdnEq, ← henc, ← hnow,
      ← hparams]
    exact ⟨rfl, rfl, rfl, rfl, rfl, rfl, rfl⟩

/-- Settles O44, from the switch part of a processed tick. -/
theorem switchesAreDebouncedAsOnePattern : Obligations.SwitchesAreDebouncedAsOnePattern := by
  intro s ht
  obtain ⟨-, hsw, -⟩ := State.upd_parts ht
  obtain ⟨hact, hdeact, htog, hshortp⟩ := hsw.flags
  refine ⟨_, _, exec_qedUpd s, rfl, fun heq => ?same, fun hne => ?differing, hact, hdeact, htog, ?short,
    fun hcommit hlegal => ?commit, fun heq => (hsw.kept heq).1⟩
  case same =>
    obtain ⟨hrun, hpend, hswt0, hcur⟩ := hsw.same heq
    exact ⟨hrun, hcur, hpend, hswt0⟩
  case differing =>
    obtain ⟨hpend, hswt0, hwaits, hcommits⟩ := hsw.differing hne
    exact ⟨hpend, fun hrestart => hswt0.trans (restartOnChange_t0_of_restart hrestart),
      fun hrun hsame => hswt0.trans (restartOnChange_t0_of_same hrun hsame), hwaits, hcommits⟩
  case short => exact hshortp.trans (congrArg (· &&& ~~~ s.qed.lplatch) hdeact.symm)
  case commit =>
    obtain ⟨-, -, -, -, -, -, -, -, -, -, -, -, -, ⟨hlpt, -⟩⟩ := hlegal
    obtain ⟨hpatt0, harmed⟩ := hsw.committed hcommit
    obtain ⟨hlatch, hparm, hlong⟩ := harmed hlpt
    exact ⟨hlatch, hpatt0, hparm, hlong⟩

/-- Settles O45: `patternFires_iff` is the condition of the statement. -/
theorem patternLongPressLatches : Obligations.PatternLongPressLatches := by
  intro s ht
  obtain ⟨-, hsw, -⟩ := State.upd_parts ht
  have hfires := patternFires_iff s.params (nowOf s) s.qed
  refine ⟨_, _, exec_qedUpd s, rfl, fun heq => ?_⟩
  obtain ⟨-, hfired, hsilent⟩ := hsw.kept heq
  refine ⟨fun harmed hheld hdue => hfired (hfires.mpr ⟨harmed, hheld, hdue⟩), fun hoff => hsilent ?_⟩
  refine Bool.eq_false_iff.mpr fun hf => ?_
  obtain ⟨harmed, hheld, hdue⟩ := hfires.mp hf
  rcases hoff with hdisarmed | hnone | hlt
  · exact Bool.false_ne_true (hdisarmed.symm.trans harmed)
  · exact hheld hnone
  · exact Nat.not_lt.mpr hdue hlt

/-- Settles O46: the mode of an encoder is `nextMode` of its own bits, case by case of its mode count. -/
theorem modeCyclingOfEachEncoder : Obligations.ModeCyclingOfEachEncoder := by
  intro s hs ht
  obtain ⟨hne, hlength⟩ := hs.encs
  obtain ⟨-, -, hE⟩ := State.upd_parts ht
  refine ⟨_, _, exec_qedUpd s, rfl, fun e he n trig hn htrig => ?_⟩
  have hmem : e < s.qed.encs.length := hlength ▸ he
  have hmode := hE.mode_eq hmem
  have hcycling : 2 ≤ n → (s.upd.qed.enc e).mode =
      if trig then incrementMode (s.qed.modewrap.getLsbD e) n (s.qed.enc e).mode else (s.qed.enc e).mode := fun h2 => by
    rw [hmode, nextMode_of_cycling (hn ▸ h2), htrig, hn]
  have hmomentary : n = 1 → (s.upd.qed.enc e).mode =
      if (s.qed.enc e).nmodes.getLsbD 7 then (s.qed.enc e).mode
      else if s.upd.qed.swcur.getLsbD e then 1#8 else 0#8 := fun h1 => by
    rw [hmode, nextMode_of_momentary (hn.symm.trans h1)]
  have hpressed : 2 ≤ n → trig = true →
      (s.upd.qed.enc e).mode = incrementMode (s.qed.modewrap.getLsbD e) n (s.qed.enc e).mode :=
    fun h2 hpress => (hcycling h2).trans (if_pos hpress)
  have hlt : n < 128 := by omega
  exact ⟨fun h0 => hmode.trans (nextMode_of_unused (hn.symm.trans h0) _ _ _ _ _),
    fun h1 hflag => (hmomentary h1).trans (if_neg (hflag ▸ Bool.false_ne_true)),
    fun h1 hflag => (hmomentary h1).trans (if_pos hflag),
    fun h2 hnone => (hcycling h2).trans (if_neg (hnone ▸ Bool.false_ne_true)),
    fun h2 hpress hbelow => (congrArg BitVec.toNat (hpressed h2 hpress)).trans (incrementMode_of_lt hlt hbelow _),
    fun h2 hpress hge hwrap => (hpressed h2 hpress).trans (incrementMode_of_wrap hlt hge hwrap),
    fun h2 hpress hge hclamp =>
      (congrArg BitVec.toNat (hpressed h2 hpress)).trans (incrementMode_of_clamp hlt hge hclamp),
    hE.modechg (hlength ▸ hne) e hmem⟩

/-- Settles O50: of the updates that change a count (`QedUpdate.count_changed`) the hypotheses leave the tick. -/
theorem countsChangeOnlyByDecodeEvents : Obligations.CountsChangeOnlyByDecodeEvents := by
  intro s t w ports rest e k hs hpending hstep he hk hrst hinit hacc hcount
  cases hd : decode w with
  | error err =>
    rw [step_of_decode_error hpending hd, respond_next_iff] at hstep
    subst hstep
    exact absurd rfl hcount
  | ok i =>
    rw [step_of_decode_ok hpending hd] at hstep
    obtain ⟨dbf, eds, qed, rs, rfl, -, -, hq⟩ := exec_units hstep
    rcases hq.count_changed hs he hcount with rfl | rfl | ⟨k', rfl, hk'⟩ | ⟨rfl, hbit, htrigt⟩
    · exact absurd hd hrst
    · exact absurd hd hinit
    · obtain rfl : k' = k := BitVec.eq_of_toNat_eq (hk'.trans hk.symm)
      exact absurd hd hacc
    · exact ⟨rfl, hbit, htrigt⟩

/-- Settles O38: the skipped tick leaves the registers and gives the zero record. -/
theorem tickWithoutElapsedTimeIsSkipped : Obligations.TickWithoutElapsedTimeIsSkipped := by
  refine ⟨fun k => decode_append _ k, fun s ht => ?_⟩
  rw [exec_qedUpd, State.upd_skipped ht]; rfl

/-- Settles O47: one encoder is written, and only its count. -/
theorem rdaccReadsAndResetsTheCount : Obligations.RdaccReadsAndResetsTheCount :=
  ⟨fun k => decode_append _ k, fun _ _ =>
    ⟨fun he => ⟨_, rfl, exec_qedRdacc he⟩, fun he => (exec_qed_unselected he).1⟩⟩

/-- Settles O48: both operations clear their bit by `clearBit`, whose bits are `clearBit_getLsbD`. -/
theorem rdabsAndRdmodeClearTheirChangedBit : Obligations.RdabsAndRdmodeClearTheirChangedBit :=
  ⟨fun k => ⟨decode_append _ k, decode_append _ k⟩, fun _ e =>
    ⟨fun he => ⟨⟨_, clearBit_getLsbD _ e.toNat, exec_qedRdabs he⟩, ⟨_, clearBit_getLsbD _ e.toNat, exec_qedRdmode he⟩⟩,
      fun he => (exec_qed_unselected he).2⟩⟩

/-- Settles O49: the fields of the word are `stickyWord_fields`. -/
theorem rdtrnReadsAndClearsTheStickyMasks : Obligations.RdtrnReadsAndClearsTheStickyMasks := by
  refine ⟨fun k => decode_append _ k, fun s => ⟨s.qed.stickyWord, ?_⟩⟩
  obtain ⟨hqdn, hqup, hdn, hup⟩ := stickyWord_fields s.qed
  exact ⟨hqdn, hqup, hdn, hup, exec_qedRdtrn s⟩

end Sys2Proof.Machine
end
